-- ==== Sys2Proof/Word.lean ====
section
/-! DEFINITION. The bit fields of the block: bytes, nibbles and the 16-bit handler mask
(`00_scope.md` R16: all values are unsigned). -/

namespace Sys2Proof

/-- A byte, numbered 7 down to 0 (R16). -/
abbrev Byte := BitVec 8

/-- A 4-bit field: a cable nibble or a Code Index Number (R76). -/
abbrev Nibble := BitVec 4

/-- The width of HANDLER_MASK (R33). -/
abbrev Mask := BitVec 16

end Sys2Proof
end

