-- ==== Sys2Proof/Config.lean ====
section
/-! DEFINITION. What an instance fixes at construction (`00_scope.md` R8 to R15), and the model's one
free value. The configuration is "a parameter of the step relation, not state" (R8); the model
carries it in a field of State that no operation writes (log entry 1). -/

namespace Sys2Proof

/-- A direction of the endpoint pair, and so the ring buffer that serves it (R6). -/
inductive Direction where
  | tx
  | rx
deriving DecidableEq, Repr

/-- The nibble maps of R7, which the spec leaves open for the strategies other than Shared (D33). -/
structure NibbleMaps where
  txNibbleOf : Vector Nibble 16
  rxCableOf  : Vector Nibble 16
deriving DecidableEq, Repr

/-- STRATEGY (R15). Shared has the identity maps; the other two take theirs as parameters (R7). -/
inductive Strategy where
  | shared
  | perCable (maps : NibbleMaps)
  | perInterface (maps : NibbleMaps)
deriving DecidableEq, Repr

/-- The parameters as a caller writes them, not yet checked (R9 to R15). -/
structure Params where
  nRx       : Nat
  nTx       : Nat
  cTx       : Nat
  cRx       : Nat
  xferMaxTx : Nat
  xferMaxRx : Nat
  mps       : Nat
  strategy  : Strategy
deriving DecidableEq, Repr

/-- The bounds of a ring capacity (R11). -/
def capacityOk (c : Nat) : Bool := 4 ≤ c && c % 4 == 0 && c ≤ 65535

/-- The configuration check of R12; the legal values of the transfer caps are R13's (log entry 14). -/
def Params.valid (p : Params) : Bool :=
  1 ≤ p.nRx && p.nRx ≤ 16 && 1 ≤ p.nTx && p.nTx ≤ 16 &&
  capacityOk p.cTx && capacityOk p.cRx &&
  1 ≤ p.xferMaxTx && p.xferMaxTx ≤ 65535 && 1 ≤ p.xferMaxRx && p.xferMaxRx ≤ 65535 &&
  1 ≤ p.mps && p.mps % 4 == 0

/-- A configuration that has passed its check. No other configuration has an instance (R12, R211). -/
structure Config extends Params where
  isValid : toParams.valid = true
deriving DecidableEq, Repr

/-- The instance of `95_test_vectors.md`, whose counts are Scenario A's and whose transmit ring is
Scenario C's. DESIGN CHOICE (log entry 1): only `State.reset` names it. -/
def Config.vectors : Config where
  nRx := 3
  nTx := 2
  cTx := 64
  cRx := 64
  xferMaxTx := 64
  xferMaxRx := 64
  mps := 64
  strategy := .shared
  isValid := by decide

/-- The value of a ring byte that holds none (R43; `93_implementation_defined.md` I14: "any value",
no claim may depend on one). A free value: it has no body (log entry 5). -/
opaque Config.unwrittenByte : Direction → Nat → Byte

end Sys2Proof
end

