-- ==== Sys2Proof/Syntax.lean ====
section
/-! DEFINITION. The instructions: one constructor per row of spec/opcode_table.json. The first sixteen
are the operations of `30_encoding.md` R70 with the operand types of R71; the last sixteen are the
rows of the Event Packet format (R75, R80 to R95), which DECODE_STEP executes from the receive ring. -/

namespace Sys2Proof

/-- The two encodings of `30_encoding.md`: the operation interface and the USB-MIDI Event Packet. -/
inductive Format where
  | op
  | eventPacket
deriving DecidableEq, Repr

inductive Instr where
  /-- OPEN (R104) -/
  | openDevice
  /-- CLOSE (R105) -/
  | closeDevice
  /-- ARM_TX (R108) -/
  | armTx
  /-- ARM_RX (R112) -/
  | armRx
  /-- COMPLETE_TX (R113) -/
  | completeTx (status length : Nat)
  /-- COMPLETE_RX (R116) -/
  | completeRx (status length : Nat) (data : List Byte)
  /-- PACK (R143) -/
  | pack (cable cin : Nat) (b1 b2 b3 : Byte)
  /-- ENCODE (R145) -/
  | encode (cable : Nat) (msg : List Byte)
  /-- DECODE_PACKET (R148) -/
  | decodePacket (p0 p1 p2 p3 : Byte)
  /-- RUN_TASK (R172) -/
  | runTask
  /-- DECODE_STEP (R173) -/
  | decodeStep
  /-- SEND (R191) -/
  | send (cable : Nat) (msg : List Byte)
  /-- NOTE_ON (R197) -/
  | noteOn (cable channel : Nat) (note velocity : Byte)
  /-- NOTE_OFF (R198) -/
  | noteOff (cable channel : Nat) (note velocity : Byte)
  /-- CONTROL_CHANGE (R199) -/
  | controlChange (cable channel : Nat) (controller value : Byte)
  /-- REGISTER (R201) -/
  | register (cable : Nat) (present : Bool)
  /-- an Event Packet of CIN 0x0 (R80) -/
  | cin0Misc (cable : Nibble) (b1 b2 b3 : Byte)
  /-- an Event Packet of CIN 0x1 (R81) -/
  | cin1CableEvent (cable : Nibble) (b1 b2 b3 : Byte)
  /-- an Event Packet of CIN 0x2 (R82) -/
  | cin2Syscom2b (cable : Nibble) (b1 b2 b3 : Byte)
  /-- an Event Packet of CIN 0x3 (R83) -/
  | cin3Syscom3b (cable : Nibble) (b1 b2 b3 : Byte)
  /-- an Event Packet of CIN 0x4 (R84) -/
  | cin4SysexStartCont (cable : Nibble) (b1 b2 b3 : Byte)
  /-- an Event Packet of CIN 0x5 (R85) -/
  | cin5SysexEnd1b (cable : Nibble) (b1 b2 b3 : Byte)
  /-- an Event Packet of CIN 0x6 (R86) -/
  | cin6SysexEnd2b (cable : Nibble) (b1 b2 b3 : Byte)
  /-- an Event Packet of CIN 0x7 (R87) -/
  | cin7SysexEnd3b (cable : Nibble) (b1 b2 b3 : Byte)
  /-- an Event Packet of CIN 0x8 (R88) -/
  | cin8NoteOff (cable : Nibble) (b1 b2 b3 : Byte)
  /-- an Event Packet of CIN 0x9 (R89) -/
  | cin9NoteOn (cable : Nibble) (b1 b2 b3 : Byte)
  /-- an Event Packet of CIN 0xA (R90) -/
  | cinAPolyPressure (cable : Nibble) (b1 b2 b3 : Byte)
  /-- an Event Packet of CIN 0xB (R91) -/
  | cinBControlChange (cable : Nibble) (b1 b2 b3 : Byte)
  /-- an Event Packet of CIN 0xC (R92) -/
  | cinCProgramChange (cable : Nibble) (b1 b2 b3 : Byte)
  /-- an Event Packet of CIN 0xD (R93) -/
  | cinDChannelPressure (cable : Nibble) (b1 b2 b3 : Byte)
  /-- an Event Packet of CIN 0xE (R94) -/
  | cinEPitchBend (cable : Nibble) (b1 b2 b3 : Byte)
  /-- an Event Packet of CIN 0xF (R95) -/
  | cinFSingleByte (cable : Nibble) (b1 b2 b3 : Byte)
deriving DecidableEq, Repr

end Sys2Proof
end

