-- ==== Sys2Proof/WellFormed.lean ====
section
/-! DEFINITION. Which instructions the serialisation of `30_encoding.md` R74 can spell: "cable, cin and
channel are limited to 0..255 and length to 0..65535", a status is one byte, a message's length is one
byte, and COMPLETE_RX carries exactly `length` data bytes (R116). Every packet is well formed (R97). -/

namespace Sys2Proof

/-- The number fits one byte of a serialised request. -/
def fitsByte (n : Nat) : Bool := n < 256

/-- The number fits the u16 field. -/
def fitsU16 (n : Nat) : Bool := n < 65536

def Instr.wellFormed : Instr → Bool
  | .openDevice => true
  | .closeDevice => true
  | .armTx => true
  | .armRx => true
  | .completeTx status length => fitsByte status && fitsU16 length
  | .completeRx status length data => fitsByte status && fitsU16 length && data.length == length
  | .pack cable cin _ _ _ => fitsByte cable && fitsByte cin
  | .encode cable msg => fitsByte cable && fitsByte msg.length
  | .decodePacket _ _ _ _ => true
  | .runTask => true
  | .decodeStep => true
  | .send cable msg => fitsByte cable && fitsByte msg.length
  | .noteOn cable channel _ _ => fitsByte cable && fitsByte channel
  | .noteOff cable channel _ _ => fitsByte cable && fitsByte channel
  | .controlChange cable channel _ _ => fitsByte cable && fitsByte channel
  | .register cable _ => fitsByte cable
  | .cin0Misc _ _ _ _ => true
  | .cin1CableEvent _ _ _ _ => true
  | .cin2Syscom2b _ _ _ _ => true
  | .cin3Syscom3b _ _ _ _ => true
  | .cin4SysexStartCont _ _ _ _ => true
  | .cin5SysexEnd1b _ _ _ _ => true
  | .cin6SysexEnd2b _ _ _ _ => true
  | .cin7SysexEnd3b _ _ _ _ => true
  | .cin8NoteOff _ _ _ _ => true
  | .cin9NoteOn _ _ _ _ => true
  | .cinAPolyPressure _ _ _ _ => true
  | .cinBControlChange _ _ _ _ => true
  | .cinCProgramChange _ _ _ _ => true
  | .cinDChannelPressure _ _ _ _ => true
  | .cinEPitchBend _ _ _ _ => true
  | .cinFSingleByte _ _ _ _ => true

end Sys2Proof
end

