-- ==== Sys2Proof/Decode.lean ====
section
/-! DEFINITION. The decoder of both formats, total on any bytes and rejecting by name, the encoder, and
the host's view of a row as one word. The formats are told apart by where their bytes come from: an
operation is a request (`30_encoding.md` R72 to R74), an Event Packet stands in the receive ring or on
the wire (R75 to R77; log entry 7). -/

namespace Sys2Proof

/-- Why bytes spell no operation or packet: the verdict INVALID of R96, with its reason. -/
inductive DecodeError where
  /-- the request has no opcode byte (R96) -/
  | emptyRequest
  /-- the opcode byte is not in R73 (R96) -/
  | unassignedOpcode (opcode : Byte)
  /-- the serialisation is shorter than R74 requires (R96) -/
  | truncated (opcode : Byte)
  /-- bytes are left after the request's layout (R116: any other `data` is ill-formed; log entry 11) -/
  | trailingBytes (count : Nat)
  /-- fewer than the four bytes of an Event Packet (R99) -/
  | shortPacket
deriving DecidableEq, Repr

/-! ### The header byte of a packet -/

/-- "byte0 = (cable<<4)|CIN" (R76). -/
def headerByte (cable cin : Nibble) : Byte :=
  (cable.setWidth 8 <<< 4) ||| cin.setWidth 8

/-- "cable = byte0>>4" (R77). -/
def headerCable (b : Byte) : Nibble := (b >>> 4).setWidth 4

/-- "CIN = byte0&0xF" (R77). -/
def headerCin (b : Byte) : Nibble := (b &&& 0xF#8).setWidth 4

/-! ### u16 operands, least significant byte first (R74) -/

def u16 (lo hi : Byte) : Nat := lo.toNat + 256 * hi.toNat

def u16Lo (n : Nat) : Byte := BitVec.ofNat 8 n

def u16Hi (n : Nat) : Byte := BitVec.ofNat 8 (n / 256)

/-! ### Decoding -/

/-- The Event Packet row of a CIN value (R80 to R95; the last arm is 0xF). -/
def packetInstr (cin cable : Nibble) (b1 b2 b3 : Byte) : Instr :=
  match cin.toNat with
  | 0x0 => .cin0Misc cable b1 b2 b3
  | 0x1 => .cin1CableEvent cable b1 b2 b3
  | 0x2 => .cin2Syscom2b cable b1 b2 b3
  | 0x3 => .cin3Syscom3b cable b1 b2 b3
  | 0x4 => .cin4SysexStartCont cable b1 b2 b3
  | 0x5 => .cin5SysexEnd1b cable b1 b2 b3
  | 0x6 => .cin6SysexEnd2b cable b1 b2 b3
  | 0x7 => .cin7SysexEnd3b cable b1 b2 b3
  | 0x8 => .cin8NoteOff cable b1 b2 b3
  | 0x9 => .cin9NoteOn cable b1 b2 b3
  | 0xA => .cinAPolyPressure cable b1 b2 b3
  | 0xB => .cinBControlChange cable b1 b2 b3
  | 0xC => .cinCProgramChange cable b1 b2 b3
  | 0xD => .cinDChannelPressure cable b1 b2 b3
  | 0xE => .cinEPitchBend cable b1 b2 b3
  | _   => .cinFSingleByte cable b1 b2 b3

/-- Four bytes in wire order are a packet (R54, R97); the rest of the bytes come back. -/
def decodeEventPacket : List Byte → Except DecodeError (Instr × List Byte)
  | p0 :: p1 :: p2 :: p3 :: rest => .ok (packetInstr (headerCin p0) (headerCable p0) p1 p2 p3, rest)
  | _ => .error .shortPacket

/-- The operands `cable`, `n`, then `n` bytes of a message, shared by ENCODE and SEND (R74). -/
def decodeMessage (opcode : Byte) (make : Nat → List Byte → Instr) :
    List Byte → Except DecodeError (Instr × List Byte)
  | cable :: n :: bs =>
    if bs.length < n.toNat then .error (.truncated opcode)
    else .ok (make cable.toNat (bs.take n.toNat), bs.drop n.toNat)
  | _ => .error (.truncated opcode)

/-- The operands `cable`, `channel` and two bytes, shared by the helpers (R74). -/
def decodeHelper (opcode : Byte) (make : Nat → Nat → Byte → Byte → Instr) :
    List Byte → Except DecodeError (Instr × List Byte)
  | cable :: channel :: b1 :: b2 :: rest => .ok (make cable.toNat channel.toNat b1 b2, rest)
  | _ => .error (.truncated opcode)

def decodeCompleteTx (opcode : Byte) : List Byte → Except DecodeError (Instr × List Byte)
  | status :: lo :: hi :: rest => .ok (.completeTx status.toNat (u16 lo hi), rest)
  | _ => .error (.truncated opcode)

def decodeCompleteRx (opcode : Byte) : List Byte → Except DecodeError (Instr × List Byte)
  | status :: lo :: hi :: bs =>
    if bs.length < u16 lo hi then .error (.truncated opcode)
    else .ok (.completeRx status.toNat (u16 lo hi) (bs.take (u16 lo hi)), bs.drop (u16 lo hi))
  | _ => .error (.truncated opcode)

def decodePack (opcode : Byte) : List Byte → Except DecodeError (Instr × List Byte)
  | cable :: cin :: b1 :: b2 :: b3 :: rest => .ok (.pack cable.toNat cin.toNat b1 b2 b3, rest)
  | _ => .error (.truncated opcode)

def decodeFourBytes (opcode : Byte) : List Byte → Except DecodeError (Instr × List Byte)
  | p0 :: p1 :: p2 :: p3 :: rest => .ok (.decodePacket p0 p1 p2 p3, rest)
  | _ => .error (.truncated opcode)

/-- `present`: 0x00 is false, any other value true (R74). -/
def decodeRegister (opcode : Byte) : List Byte → Except DecodeError (Instr × List Byte)
  | cable :: present :: rest => .ok (.register cable.toNat (present != 0#8), rest)
  | _ => .error (.truncated opcode)

/-- One serialised operation at the head of the bytes, and the bytes after it (R72 to R74, R96). -/
def decodeOp : List Byte → Except DecodeError (Instr × List Byte)
  | [] => .error .emptyRequest
  | op :: bs =>
    match op.toNat with
    | 0x01 => .ok (.openDevice, bs)
    | 0x02 => .ok (.closeDevice, bs)
    | 0x10 => .ok (.armTx, bs)
    | 0x11 => .ok (.armRx, bs)
    | 0x12 => decodeCompleteTx op bs
    | 0x13 => decodeCompleteRx op bs
    | 0x20 => decodePack op bs
    | 0x21 => decodeMessage op .encode bs
    | 0x22 => decodeFourBytes op bs
    | 0x30 => .ok (.runTask, bs)
    | 0x31 => .ok (.decodeStep, bs)
    | 0x40 => decodeMessage op .send bs
    | 0x41 => decodeHelper op .noteOn bs
    | 0x42 => decodeHelper op .noteOff bs
    | 0x43 => decodeHelper op .controlChange bs
    | 0x44 => decodeRegister op bs
    | _ => .error (.unassignedOpcode op)

def decode : Format → List Byte → Except DecodeError (Instr × List Byte)
  | .op => decodeOp
  | .eventPacket => decodeEventPacket

/-- A request is one operation and nothing more (R71, R72; log entry 11). -/
def decodeRequest (bs : List Byte) : Except DecodeError Instr :=
  match decodeOp bs with
  | .error e => .error e
  | .ok (i, []) => .ok i
  | .ok (_, rest) => .error (.trailingBytes rest.length)

/-! ### Encoding, from the tables of R73, R74 and R75 -/

def packetBytes (cable cin : Nibble) (b1 b2 b3 : Byte) : List Byte :=
  [headerByte cable cin, b1, b2, b3]

def messageBytes (opcode : Byte) (cable : Nat) (msg : List Byte) : List Byte :=
  opcode :: BitVec.ofNat 8 cable :: BitVec.ofNat 8 msg.length :: msg

def helperBytes (opcode : Byte) (cable channel : Nat) (b1 b2 : Byte) : List Byte :=
  [opcode, BitVec.ofNat 8 cable, BitVec.ofNat 8 channel, b1, b2]

def encode : Instr → List Byte
  | .openDevice => [0x01#8]
  | .closeDevice => [0x02#8]
  | .armTx => [0x10#8]
  | .armRx => [0x11#8]
  | .completeTx status length => [0x12#8, BitVec.ofNat 8 status, u16Lo length, u16Hi length]
  | .completeRx status length data => [0x13#8, BitVec.ofNat 8 status, u16Lo length, u16Hi length] ++ data
  | .pack cable cin b1 b2 b3 => [0x20#8, BitVec.ofNat 8 cable, BitVec.ofNat 8 cin, b1, b2, b3]
  | .encode cable msg => messageBytes 0x21#8 cable msg
  | .decodePacket p0 p1 p2 p3 => [0x22#8, p0, p1, p2, p3]
  | .runTask => [0x30#8]
  | .decodeStep => [0x31#8]
  | .send cable msg => messageBytes 0x40#8 cable msg
  | .noteOn cable channel note velocity => helperBytes 0x41#8 cable channel note velocity
  | .noteOff cable channel note velocity => helperBytes 0x42#8 cable channel note velocity
  | .controlChange cable channel controller value => helperBytes 0x43#8 cable channel controller value
  | .register cable present => [0x44#8, BitVec.ofNat 8 cable, if present then 1#8 else 0#8]
  | .cin0Misc cable b1 b2 b3 => packetBytes cable 0x0 b1 b2 b3
  | .cin1CableEvent cable b1 b2 b3 => packetBytes cable 0x1 b1 b2 b3
  | .cin2Syscom2b cable b1 b2 b3 => packetBytes cable 0x2 b1 b2 b3
  | .cin3Syscom3b cable b1 b2 b3 => packetBytes cable 0x3 b1 b2 b3
  | .cin4SysexStartCont cable b1 b2 b3 => packetBytes cable 0x4 b1 b2 b3
  | .cin5SysexEnd1b cable b1 b2 b3 => packetBytes cable 0x5 b1 b2 b3
  | .cin6SysexEnd2b cable b1 b2 b3 => packetBytes cable 0x6 b1 b2 b3
  | .cin7SysexEnd3b cable b1 b2 b3 => packetBytes cable 0x7 b1 b2 b3
  | .cin8NoteOff cable b1 b2 b3 => packetBytes cable 0x8 b1 b2 b3
  | .cin9NoteOn cable b1 b2 b3 => packetBytes cable 0x9 b1 b2 b3
  | .cinAPolyPressure cable b1 b2 b3 => packetBytes cable 0xA b1 b2 b3
  | .cinBControlChange cable b1 b2 b3 => packetBytes cable 0xB b1 b2 b3
  | .cinCProgramChange cable b1 b2 b3 => packetBytes cable 0xC b1 b2 b3
  | .cinDChannelPressure cable b1 b2 b3 => packetBytes cable 0xD b1 b2 b3
  | .cinEPitchBend cable b1 b2 b3 => packetBytes cable 0xE b1 b2 b3
  | .cinFSingleByte cable b1 b2 b3 => packetBytes cable 0xF b1 b2 b3

/-- Which of the two formats a row belongs to (the `format` column of spec/opcode_table.json). -/
def Instr.format : Instr → Format
  | .openDevice => .op
  | .closeDevice => .op
  | .armTx => .op
  | .armRx => .op
  | .completeTx _ _ => .op
  | .completeRx _ _ _ => .op
  | .pack _ _ _ _ _ => .op
  | .encode _ _ => .op
  | .decodePacket _ _ _ _ => .op
  | .runTask => .op
  | .decodeStep => .op
  | .send _ _ => .op
  | .noteOn _ _ _ _ => .op
  | .noteOff _ _ _ _ => .op
  | .controlChange _ _ _ _ => .op
  | .register _ _ => .op
  | .cin0Misc _ _ _ _ => .eventPacket
  | .cin1CableEvent _ _ _ _ => .eventPacket
  | .cin2Syscom2b _ _ _ _ => .eventPacket
  | .cin3Syscom3b _ _ _ _ => .eventPacket
  | .cin4SysexStartCont _ _ _ _ => .eventPacket
  | .cin5SysexEnd1b _ _ _ _ => .eventPacket
  | .cin6SysexEnd2b _ _ _ _ => .eventPacket
  | .cin7SysexEnd3b _ _ _ _ => .eventPacket
  | .cin8NoteOff _ _ _ _ => .eventPacket
  | .cin9NoteOn _ _ _ _ => .eventPacket
  | .cinAPolyPressure _ _ _ _ => .eventPacket
  | .cinBControlChange _ _ _ _ => .eventPacket
  | .cinCProgramChange _ _ _ _ => .eventPacket
  | .cinDChannelPressure _ _ _ _ => .eventPacket
  | .cinEPitchBend _ _ _ _ => .eventPacket
  | .cinFSingleByte _ _ _ _ => .eventPacket

/-! ### A row of the opcode table as one word (log entry 8) -/

/-- The `n` bytes of a word, bit 0 in the first byte (R55, R74: least significant byte first). -/
def wordBytes : Nat → Nat → List Byte
  | 0, _ => []
  | n + 1, w => BitVec.ofNat 8 w :: wordBytes n (w / 256)

/-- The bytes with zeros after them, up to `n` in all. -/
def padTo (n : Nat) (bs : List Byte) : List Byte := bs ++ List.replicate (n - bs.length) 0#8

/-- How many bytes R74 gives the request, reading operand bytes that are not there as zero. -/
def requestLength (bs : List Byte) : Nat :=
  match padTo 4 bs with
  | op :: _ :: b2 :: b3 :: _ =>
    match op.toNat with
    | 0x12 => 4
    | 0x13 => 4 + u16 b2 b3
    | 0x20 => 6
    | 0x21 => 3 + b2.toNat
    | 0x22 => 5
    | 0x40 => 3 + b2.toNat
    | 0x41 => 5
    | 0x42 => 5
    | 0x43 => 5
    | 0x44 => 3
    | _ => 1
  | _ => 1

/-- The opcode byte is one of R73. -/
def opcodeAssigned (b : Byte) : Bool :=
  [0x01#8, 0x02#8, 0x10#8, 0x11#8, 0x12#8, 0x13#8, 0x20#8, 0x21#8, 0x22#8, 0x30#8, 0x31#8, 0x40#8,
    0x41#8, 0x42#8, 0x43#8, 0x44#8].contains b

/-- The format and the bytes of a row's word: 32 bits are an Event Packet, the table's only 32-bit
format; any other width is an operation request, but for a first byte that is no opcode in a word of at
most 8 bits, which is the header of an Event Packet whose payload the table gives no bits (log entry 8). -/
def tableWord (nbits w : Nat) : Format × List Byte :=
  let bs := wordBytes ((nbits + 7) / 8) w
  if nbits = 32 then (.eventPacket, bs)
  else if nbits ≤ 8 && !opcodeAssigned (BitVec.ofNat 8 w) then (.eventPacket, padTo 4 bs)
  else (.op, padTo (requestLength bs) bs)

/-- The instruction the decoder reads from a row's word. -/
def decodeTableWord (nbits w : Nat) : Option Instr :=
  let (format, bs) := tableWord nbits w
  match decode format bs with
  | .ok (i, []) => some i
  | _ => none

end Sys2Proof
end

