-- ==== Sys2Proof/Machine/State.lean ====
section
/-! DEFINITION. The state of one instance, exactly the registers and memories of `10_state.md` R20, and
beside them three fields of the model's own: the configuration, the waiting requests and the last reply
(log entries 1, 2 and 3). Plain data; reset is construction (R42, R240). -/

namespace Sys2Proof.Machine

/-- A pump's state (R23, R24, R100). -/
inductive PumpState where
  | idle
  | transferPending
deriving DecidableEq, Repr

/-- The fault names with the information recorded (`60_exceptions.md` R214). -/
inductive FaultName where
  /-- F_OPEN_WHILE_OPEN -/
  | openWhileOpen
  /-- F_OPEN_WHILE_PENDING: which directions are pending -/
  | openWhilePending (txPending rxPending : Bool)
  /-- F_SPURIOUS_COMPLETION: the direction -/
  | spuriousCompletion (d : Direction)
  /-- F_LENGTH_OVERRUN: the direction, the reported length, the submitted length -/
  | lengthOverrun (d : Direction) (length xferLen : Nat)
deriving DecidableEq, Repr

/-- The event kinds of TRACE (R38). -/
inductive Event where
  | submitTx (off len : Nat) (bytes : List Byte)
  | submitRx (off len : Nat)
  | dispatch (cable cin : Nibble) (b1 b2 b3 : Byte)
deriving DecidableEq, Repr

/-- The result codes (`60_exceptions.md` R212). -/
inductive Result where
  | ok
  | bufferFull
  | rejectCableRange
  | rejectCinRange
  | rejectLength
  | rejectNotOpen
  | rejectChannelRange
  | armed
  | noopClosed
  | noopPending
  | noopEmpty
  | noopFull
  | dispatched
  | dropped
  | taskDone
  | noopIdle
  | noopBusy
deriving DecidableEq, Repr

/-- The four bytes of an Event Packet in wire order (R54, R75). -/
structure Packet where
  p0 : Byte
  p1 : Byte
  p2 : Byte
  p3 : Byte
deriving DecidableEq, Repr

/-- What `Unpack` gives: the raw cable nibble, the CIN and the three payload bytes (R149). -/
structure Unpacked where
  nibble : Nibble
  cin    : Nibble
  b1     : Byte
  b2     : Byte
  b3     : Byte
deriving DecidableEq, Repr

/-- What an operation returns to its caller: a code, or the packet or tuple of the codec (R212). -/
inductive Reply where
  | code (r : Result)
  | packet (p : Packet)
  | unpacked (u : Unpacked)
deriving DecidableEq, Repr

/-- The agents (`60_exceptions.md` R225). -/
inductive Agent where
  | lifecycle
  | application
  | usbStack
  | scheduler
deriving DecidableEq, Repr

/-- An operation request on its way to the block: who issues it and its serialisation (R71, R72, R225). -/
structure Request where
  issuer : Agent
  bytes  : List Byte
deriving DecidableEq, Repr

/-- The contents of a ring buffer's storage: (index, byte) pairs, indices strictly rising, an index that
is not listed holding no value (R43). -/
abbrev Memory := List Host.Cell

/-- The state (R20). -/
structure State where
  /-- the configuration, which no operation writes (R8); the model's own field -/
  cfg          : Config
  /-- OPEN (R22) -/
  isOpen       : Bool
  /-- TX_STATE (R23) -/
  txState      : PumpState
  /-- RX_STATE (R24) -/
  rxState      : PumpState
  /-- TX_XFER_OFF (R25) -/
  txXferOff    : Nat
  /-- TX_XFER_LEN (R25) -/
  txXferLen    : Nat
  /-- RX_XFER_OFF (R26) -/
  rxXferOff    : Nat
  /-- RX_XFER_LEN (R26) -/
  rxXferLen    : Nat
  /-- TX_RD (R27) -/
  txRd         : Nat
  /-- TX_CNT (R27) -/
  txCnt        : Nat
  /-- RX_RD (R29) -/
  rxRd         : Nat
  /-- RX_CNT (R29) -/
  rxCnt        : Nat
  /-- TXBUF (R31) -/
  txBuf        : Memory
  /-- RXBUF (R32) -/
  rxBuf        : Memory
  /-- HANDLER_MASK (R33) -/
  handlerMask  : Mask
  /-- TASKQ (R34) -/
  taskQ        : Nat
  /-- DECODE_ACTIVE (R35) -/
  decodeActive : Bool
  /-- FAULT (R36) -/
  fault        : Option FaultName
  /-- TRACE (R38), the oldest event first -/
  trace        : List Event
  /-- the requests no step has taken yet, the next one first; the model's own field -/
  requests     : List Request
  /-- what the last operation returned to its caller (R17, R212); the model's own field -/
  reply        : Option Reply
deriving DecidableEq, Repr

/-- Why a step stops with a fault. -/
inductive Fault where
  /-- raised by every operation and by `step` while FAULT is not none: "no operation has a step"
  (R36, `93_implementation_defined.md` I20). Safe: the spec itself ends the run here. -/
  | quiescent (f : FaultName)
  /-- raised by COMPLETE_RX when the region it writes reaches past the last index of RXBUF, an index that
  does not exist (R50). No run reaches it (R37 (c)). Safe: the model stops (log entry 12). -/
  | ringIndexOutOfRange (d : Direction) (index : Nat)
deriving DecidableEq, Repr

/-- Why a request has no step. Each is safe: the spec refuses it. -/
inductive Refusal where
  /-- raised by an arm of `exec` whose instruction has no meaning yet; no arm does -/
  | notModelled (mnemonic : String)
  /-- raised by `step` when no request waits: the block "takes no step on its own" (R241, log entry 17) -/
  | noRequest
  /-- raised by `step` for bytes that spell no operation: the verdict INVALID (R96) -/
  | invalidRequest (e : DecodeError)
  /-- raised by `step` for an operation its issuer may not issue (R225, I17) -/
  | wrongAgent (issuer : Agent)
  /-- raised by COMPLETE_RX for `data` whose length is not `length`: "ill-formed and refused" (R116) -/
  | dataLengthMismatch (length dataLength : Nat)
deriving DecidableEq, Repr

/-- The state right after construction with a configuration (R42). -/
def State.construct (c : Config) : State where
  cfg := c
  isOpen := false
  txState := .idle
  rxState := .idle
  txXferOff := 0
  txXferLen := 0
  rxXferOff := 0
  rxXferLen := 0
  txRd := 0
  txCnt := 0
  rxRd := 0
  rxCnt := 0
  txBuf := []
  rxBuf := []
  handlerMask := 0x0000#16
  taskQ := 0
  decodeActive := false
  fault := none
  trace := []
  requests := []
  reply := none

/-- Construction from unchecked parameters: a ConfigurationError has no instance (R12, R211, R240). -/
def State.construct? (p : Params) : Option State :=
  if h : p.valid = true then some (State.construct ⟨p, h⟩) else none

/-- The machine right after reset (R240), for the instance of `95_test_vectors.md` (log entry 1). -/
def State.reset : State := State.construct Config.vectors

end Sys2Proof.Machine
end

