-- ==== Sys2Proof/Machine/Operands.lean ====
section
/-! DEFINITION. The operand forms and the codec functions: messages (R145, R146), the nibble maps (R7),
`CinOf` (R141), `Pack` (R144), `Unpack` (R149) and the helpers' status bytes (R200). -/

namespace Sys2Proof.Machine

/-- A message the encoder takes: "MIDI status byte, and 0–2 data bytes" (R146). -/
inductive Message where
  | one (status : Byte)
  | two (status d1 : Byte)
  | three (status d1 d2 : Byte)
deriving DecidableEq, Repr

/-- The message of a byte list; none for a list of no byte or of four and more (R146). -/
def messageOf : List Byte → Option Message
  | [a] => some (.one a)
  | [a, b] => some (.two a b)
  | [a, b, c] => some (.three a b c)
  | _ => none

/-- `m[0]`, the MIDI status byte (R141). -/
def messageStatus : Message → Byte
  | .one a => a
  | .two a _ => a
  | .three a _ _ => a

/-- `m[n-1]` (R141). -/
def messageLast : Message → Byte
  | .one a => a
  | .two _ b => b
  | .three _ _ c => c

/-- `n = len(m)` (R141). -/
def messageLen : Message → Nat
  | .one _ => 1
  | .two _ _ => 2
  | .three _ _ _ => 3

/-- `m[1]`, or the padding 0x00 (R78, R144). -/
def messageByte2 : Message → Byte
  | .one _ => 0x00#8
  | .two _ b => b
  | .three _ b _ => b

/-- `m[2]`, or the padding 0x00 (R78, R144). -/
def messageByte3 : Message → Byte
  | .one _ => 0x00#8
  | .two _ _ => 0x00#8
  | .three _ _ c => c

/-- `CinOf` (R141), its cases tested in the rule's order. -/
def cinOf (m : Message) : Nibble :=
  let s := messageStatus m
  if 0x80#8 ≤ s ∧ s ≤ 0xEF#8 then (s >>> 4).setWidth 4
  else if messageLen m = 1 ∧ s = 0xF7#8 then 0x5#4
  else if (s = 0xF0#8 ∨ s < 0x80#8) ∧ messageLast m = 0xF7#8 then BitVec.ofNat 4 (0x4 + messageLen m)
  else if s = 0xF0#8 ∨ s < 0x80#8 then 0x4#4
  else if s = 0xF1#8 ∨ s = 0xF3#8 then 0x2#4
  else if s = 0xF2#8 then 0x3#4
  else if s = 0xF6#8 ∨ 0xF8#8 ≤ s then 0xF#4
  else 0x0#4

/-- `TX_NIBBLE_OF` (R7): the identity for Shared, the instance's own map otherwise. -/
def txNibbleOf (c : Config) (cable : Nibble) : Nibble :=
  match c.strategy with
  | .shared => cable
  | .perCable maps => maps.txNibbleOf[cable.toNat]'cable.isLt
  | .perInterface maps => maps.txNibbleOf[cable.toNat]'cable.isLt

/-- `RX_CABLE_OF` (R7, R176): the identity for Shared, the instance's own map otherwise. -/
def rxCableOf (c : Config) (nibble : Nibble) : Nibble :=
  match c.strategy with
  | .shared => nibble
  | .perCable maps => maps.rxCableOf[nibble.toNat]'nibble.isLt
  | .perInterface maps => maps.rxCableOf[nibble.toNat]'nibble.isLt

/-- `Pack` (R144). -/
def pack (c : Config) (cable cin : Nibble) (m : Message) : Packet where
  p0 := headerByte (txNibbleOf c cable) cin
  p1 := messageStatus m
  p2 := messageByte2 m
  p3 := messageByte3 m

/-- `Unpack` (R149). -/
def unpack (p : Packet) : Unpacked where
  nibble := headerCable p.p0
  cin := headerCin p.p0
  b1 := p.p1
  b2 := p.p2
  b3 := p.p3

/-- The bytes of a packet in wire order (R54). -/
def packetList (p : Packet) : List Byte := [p.p0, p.p1, p.p2, p.p3]

/-- A cable number below 16 as the 4-bit field (R76). -/
def cableNibble (cable : Nat) : Nibble := BitVec.ofNat 4 cable

/-- A CIN below 16 as the 4-bit field (R76). -/
def cinNibble (cin : Nat) : Nibble := BitVec.ofNat 4 cin

/-- `base | channel`: the channel in bits 3:0 of a status byte (R79, R200). -/
def statusByte (base : Byte) (channel : Nat) : Byte := base ||| BitVec.ofNat 8 channel

/-- The numeric value of a result code (R212). -/
def resultCode : Result → Byte
  | .ok => 0x00#8
  | .bufferFull => 0x01#8
  | .rejectCableRange => 0x02#8
  | .rejectCinRange => 0x03#8
  | .rejectLength => 0x04#8
  | .rejectNotOpen => 0x05#8
  | .rejectChannelRange => 0x06#8
  | .armed => 0x10#8
  | .noopClosed => 0x11#8
  | .noopPending => 0x12#8
  | .noopEmpty => 0x13#8
  | .noopFull => 0x14#8
  | .dispatched => 0x20#8
  | .dropped => 0x21#8
  | .taskDone => 0x22#8
  | .noopIdle => 0x23#8
  | .noopBusy => 0x24#8

end Sys2Proof.Machine
end

