-- ==== Sys2Proof/Machine/Flags.lean ====
section
/-! DEFINITION. The block's flags and the quantities derived from its registers. The flags are OPEN,
TX_STATE, RX_STATE, DECODE_ACTIVE and FAULT; no operation sets one as a side effect of computing a value
(`10_state.md` R39), so what is computed here is read, never stored. -/

namespace Sys2Proof.Machine

/-- The encoding of a pump state as one bit: Idle = 0, TransferPending = 1 (R23). -/
def pumpBit : PumpState → BitVec 1
  | .idle => 0#1
  | .transferPending => 1#1

/-- TX_WR (R28). -/
def State.txWr (s : State) : Nat := (s.txRd + s.txCnt) % s.cfg.cTx

/-- TX_FREE (R28). -/
def State.txFree (s : State) : Nat := s.cfg.cTx - s.txCnt

/-- RX_WR (R30). -/
def State.rxWr (s : State) : Nat := (s.rxRd + s.rxCnt) % s.cfg.cRx

/-- RX_FREE (R30). -/
def State.rxFree (s : State) : Nat := s.cfg.cRx - s.rxCnt

/-- HANDLER_MASK[cable] (R33). -/
def State.handlerBit (s : State) (cable : Nat) : Bool := s.handlerMask.getLsbD cable

/-- The dispatch guard (R175). -/
def State.dispatchable (s : State) (cable : Nibble) : Bool :=
  cable.toNat < s.cfg.nRx && s.handlerBit cable.toNat

/-- HANDLER_MASK with bit `cable` set or cleared (R201). -/
def maskWith (mask : Mask) (cable : Nat) (present : Bool) : Mask :=
  if present then mask ||| (1#16 <<< cable) else mask &&& ~~~(1#16 <<< cable)

end Sys2Proof.Machine
end

