-- ==== Sys2Proof/Machine/Ops.lean ====
section
/-! DEFINITION. The shared operations: the memories, the register writes (every write of a register goes
through one of them), the pseudocode primitives of `00_scope.md` R17, taking a fault (`60_exceptions.md`
R214), the arm attempts (R106 to R112), queuing a packet (R194) and delivering one (R175 to R177). -/

namespace Sys2Proof.Machine

abbrev StepOutcome := Host.Outcome State Fault Refusal

/-! ### Memory (R50 to R53) -/

/-- The byte a storage lists at an index; none where no value was written (R43). -/
def storedByte : Memory → Nat → Option Byte
  | [], _ => none
  | (i, v) :: m, a => if a = i then some v else storedByte m a

/-- `MemWrite(B, i, 1, v)` (R17, R53), keeping the indices in rising order. -/
def memWrite : Memory → Nat → Byte → Memory
  | [], a, v => [(a, v)]
  | (i, w) :: m, a, v =>
    if a < i then (a, v) :: (i, w) :: m
    else if a = i then (a, v) :: m
    else (i, w) :: memWrite m a v

/-- `MemRead(B, i, 1)` (R17, R53). An index that holds no value reads as the free value of R43
(log entry 5). -/
def memRead (d : Direction) (m : Memory) (i : Nat) : Byte :=
  (storedByte m i).getD (Config.unwrittenByte d i)

/-- The bytes written at `off`, `off + 1`, … (R116). -/
def memWriteFrom (m : Memory) (off : Nat) : List Byte → Memory
  | [] => m
  | v :: vs => memWriteFrom (memWrite m off v) (off + 1) vs

/-- The bytes read at `off` to `off + n - 1` (R108). -/
def memReadFrom (d : Direction) (m : Memory) (off n : Nat) : List Byte :=
  (List.range n).map fun i => memRead d m (off + i)

/-- The bytes written at `start`, `start + 1`, … modulo the capacity (R56, R194). -/
def ringWrite (cap : Nat) (m : Memory) (start : Nat) : List Byte → Memory
  | [] => m
  | v :: vs => ringWrite cap (memWrite m (start % cap) v) (start + 1) vs

/-- Four bytes read at `start` to `start + 3` modulo the capacity, as a packet (R56, R173). -/
def ringPacket (d : Direction) (cap : Nat) (m : Memory) (start : Nat) : Packet where
  p0 := memRead d m (start % cap)
  p1 := memRead d m ((start + 1) % cap)
  p2 := memRead d m ((start + 2) % cap)
  p3 := memRead d m ((start + 3) % cap)

/-- Indices strictly rising, all of them at least `lo`. -/
def Memory.wfFrom (lo : Nat) : Memory → Bool
  | [] => true
  | (i, _) :: m => lo ≤ i && Memory.wfFrom (i + 1) m

/-- The canonical form of a storage: indices strictly rising. An unlisted index reads as no value, so no
entry equals what an unlisted index reads as. -/
def Memory.wf (m : Memory) : Bool := Memory.wfFrom 0 m

/-! ### Register writes -/

/-- `emit E` (R17). -/
def State.emit (s : State) (e : Event) : State := { s with trace := s.trace ++ [e] }

/-- OPEN (R22). -/
def State.setOpen (s : State) (b : Bool) : State := { s with isOpen := b }

/-- The rings "allocated at device-open": empty, and no task queued or running (R104). -/
def State.restartRings (s : State) : State :=
  { s with txRd := 0, txCnt := 0, rxRd := 0, rxCnt := 0, taskQ := 0, decodeActive := false }

/-- TX_XFER_OFF, TX_XFER_LEN and TX_STATE of a submit (R108). -/
def State.submitTx (s : State) (off len : Nat) : State :=
  { s with txXferOff := off, txXferLen := len, txState := .transferPending }

/-- RX_XFER_OFF, RX_XFER_LEN and RX_STATE of a submit (R112). -/
def State.submitRx (s : State) (off len : Nat) : State :=
  { s with rxXferOff := off, rxXferLen := len, rxState := .transferPending }

/-- TX_STATE <- Idle (R113). -/
def State.txToIdle (s : State) : State := { s with txState := .idle }

/-- RX_STATE <- Idle (R116). -/
def State.rxToIdle (s : State) : State := { s with rxState := .idle }

/-- The transmit read cursor past the bytes transferred (R114). -/
def State.advanceTx (s : State) (length : Nat) : State :=
  { s with txRd := (s.txRd + length) % s.cfg.cTx, txCnt := s.txCnt - length }

/-- The received bytes in the offered region, the write cursor past them, one task enqueued (R117). -/
def State.receive (s : State) (length : Nat) (data : List Byte) : State :=
  { s with
    rxBuf := memWriteFrom s.rxBuf s.rxXferOff data
    rxCnt := s.rxCnt + length
    taskQ := s.taskQ + 1 }

/-- One task taken from the queue and started (R172). -/
def State.startTask (s : State) : State := { s with taskQ := s.taskQ - 1, decodeActive := true }

/-- The running task ends (R173). -/
def State.endTask (s : State) : State := { s with decodeActive := false }

/-- The receive read cursor past one group (R173, R174). -/
def State.consumeGroup (s : State) : State :=
  { s with rxRd := (s.rxRd + 4) % s.cfg.cRx, rxCnt := s.rxCnt - 4 }

/-- A packet's bytes at the transmit write cursor, and the count past them (R194). -/
def State.queuePacket (s : State) (p : Packet) : State :=
  { s with
    txBuf := ringWrite s.cfg.cTx s.txBuf (s.txRd + s.txCnt) (packetList p)
    txCnt := s.txCnt + 4 }

/-- HANDLER_MASK[cable] (R201). -/
def State.setHandler (s : State) (cable : Nat) (present : Bool) : State :=
  { s with handlerMask := maskWith s.handlerMask cable present }

/-- The result handed to the caller (R17 `return`). -/
def State.withReply (s : State) (r : Option Reply) : State := { s with reply := r }

/-- FAULT (R36). -/
def State.withFault (s : State) (f : FaultName) : State := { s with fault := some f }

/-- The requests still waiting. -/
def State.withRequests (s : State) (rs : List Request) : State := { s with requests := rs }

/-! ### How an operation ends (R17) -/

/-- `return r`. -/
def finish (s : State) (r : Reply) : StepOutcome := .next (s.withReply (some r))

/-- `return` of a result code. -/
def finishCode (o : State × Result) : StepOutcome := finish o.1 (.code o.2)

/-- `reject(code)`: a result that "leaves state unchanged" (R17). -/
def reject (s : State) (r : Result) : StepOutcome := finish s (.code r)

/-- `raise Fault(name)`: FAULT takes the name, the operation ends and returns no result; nothing else
changes (R17, R214; log entry 4). -/
def raiseFault (s : State) (f : FaultName) : StepOutcome := .next ((s.withFault f).withReply none)

/-- "While FAULT is not none, no operation has a step" (R36). -/
def unlessFaulted (s : State) (body : StepOutcome) : StepOutcome :=
  match s.fault with
  | none => body
  | some f => .fault (.quiescent f)

/-! ### Arm attempts -/

/-- `TxRegion` (R106): offset and length. -/
def txRegion (s : State) : Nat × Nat :=
  (s.txRd, min s.txCnt (min (s.cfg.cTx - s.txRd) s.cfg.xferMaxTx))

/-- `RxRegion` (R107): offset and length. -/
def rxRegion (s : State) : Nat × Nat :=
  (s.rxWr, min s.rxFree (min (s.cfg.cRx - s.rxWr) s.cfg.xferMaxRx))

/-- The submit of the transmit region (R108). -/
def submitTxRegion (s : State) : State :=
  let (off, len) := txRegion s
  (s.submitTx off len).emit (.submitTx off len (memReadFrom .tx s.txBuf off len))

/-- The submit of the receive region (R112). -/
def submitRxRegion (s : State) : State :=
  let (off, len) := rxRegion s
  (s.submitRx off len).emit (.submitRx off len)

/-- `ARM_TX()` (R108), as an operation performs it inline. -/
def armTx (s : State) : State × Result :=
  if s.isOpen = false then (s, .noopClosed)
  else if s.txState = .transferPending then (s, .noopPending)
  else if s.txCnt = 0 then (s, .noopEmpty)
  else (submitTxRegion s, .armed)

/-- `ARM_RX()` (R112), as an operation performs it inline. -/
def armRx (s : State) : State × Result :=
  if s.isOpen = false then (s, .noopClosed)
  else if s.rxState = .transferPending then (s, .noopPending)
  else if s.rxFree = 0 then (s, .noopFull)
  else (submitRxRegion s, .armed)

/-! ### Queuing and delivering a packet -/

/-- `SEND(cable, msg)` (R191) as SEND and the helpers perform it, its checks in the rule's order. -/
def sendMessage (s : State) (cable : Nat) (msg : List Byte) : State × Result :=
  if 16 ≤ cable then (s, .rejectCableRange)
  else match messageOf msg with
    | none => (s, .rejectLength)
    | some m =>
      if s.isOpen = false then (s, .rejectNotOpen)
      else if s.txFree < 4 then (s, .bufferFull)
      else ((armTx (s.queuePacket (pack s.cfg (cableNibble cable) (cinOf m) m))).1, .ok)

/-- A decoded packet goes to the handler registered for its cable, or is silently dropped
(R175, R176, R177, R183). -/
def deliver (s : State) (u : Unpacked) : State × Result :=
  let cable := rxCableOf s.cfg u.nibble
  if s.dispatchable cable then (s.emit (.dispatch cable u.cin u.b1 u.b2 u.b3), .dispatched)
  else (s, .dropped)

end Sys2Proof.Machine
end

