-- ==== Sys2Proof/Machine/Api.lean ====
section
/-! DEFINITION. The application-facing operations (`43_application_api.md`): SEND, NOTE_ON, NOTE_OFF,
CONTROL_CHANGE, REGISTER. -/

namespace Sys2Proof.Machine

/-- SEND (R191). -/
def execSend (cable : Nat) (msg : List Byte) (s : State) : StepOutcome :=
  unlessFaulted s <| finishCode (sendMessage s cable msg)

/-- A helper: the channel check, then exactly one SEND (R200). -/
def sendHelper (base : Byte) (cable channel : Nat) (b1 b2 : Byte) (s : State) : StepOutcome :=
  unlessFaulted s <|
    if 16 ≤ channel then reject s .rejectChannelRange
    else finishCode (sendMessage s cable [statusByte base channel, b1, b2])

/-- NOTE_ON (R197). -/
def execNoteOn (cable channel : Nat) (note velocity : Byte) (s : State) : StepOutcome :=
  sendHelper 0x90#8 cable channel note velocity s

/-- NOTE_OFF (R198). -/
def execNoteOff (cable channel : Nat) (note velocity : Byte) (s : State) : StepOutcome :=
  sendHelper 0x80#8 cable channel note velocity s

/-- CONTROL_CHANGE (R199). -/
def execControlChange (cable channel : Nat) (controller value : Byte) (s : State) : StepOutcome :=
  sendHelper 0xB0#8 cable channel controller value s

/-- REGISTER (R201). -/
def execRegister (cable : Nat) (present : Bool) (s : State) : StepOutcome :=
  unlessFaulted s <|
    if s.cfg.nRx ≤ cable then reject s .rejectCableRange
    else finish (s.setHandler cable present) (.code .ok)

end Sys2Proof.Machine
end

