-- ==== Sys2Proof/Machine/Codec.lean ====
section
/-! DEFINITION. The codec operations (`41_packet_codec.md`): PACK, ENCODE, DECODE_PACKET. The result of each
is a function of the operands (and of the nibble map of R7) that takes no register and no agent: that is R140's
purity, and whoever holds the operands has the result. The operation itself, as a step of the instance, hands
the result to its caller and writes no register of the spec. -/

namespace Sys2Proof.Machine

/-- The result of PACK (R143). -/
def packResult (c : Config) (cable cin : Nat) (b1 b2 b3 : Byte) : Reply :=
  if 16 ≤ cable then .code .rejectCableRange
  else if 16 ≤ cin then .code .rejectCinRange
  else .packet (pack c (cableNibble cable) (cinNibble cin) (.three b1 b2 b3))

/-- The result of ENCODE (R145). -/
def encodeResult (c : Config) (cable : Nat) (msg : List Byte) : Reply :=
  if 16 ≤ cable then .code .rejectCableRange
  else match messageOf msg with
    | none => .code .rejectLength
    | some m => .packet (pack c (cableNibble cable) (cinOf m) m)

/-- The result of DECODE_PACKET (R148). -/
def decodePacketResult (p0 p1 p2 p3 : Byte) : Reply := .unpacked (unpack ⟨p0, p1, p2, p3⟩)

/-- PACK (R140, R143). -/
def execPack (cable cin : Nat) (b1 b2 b3 : Byte) (s : State) : StepOutcome :=
  unlessFaulted s <| finish s (packResult s.cfg cable cin b1 b2 b3)

/-- ENCODE (R140, R145). -/
def execEncode (cable : Nat) (msg : List Byte) (s : State) : StepOutcome :=
  unlessFaulted s <| finish s (encodeResult s.cfg cable msg)

/-- DECODE_PACKET (R140, R148). -/
def execDecodePacket (p0 p1 p2 p3 : Byte) (s : State) : StepOutcome :=
  unlessFaulted s <| finish s (decodePacketResult p0 p1 p2 p3)

end Sys2Proof.Machine
end

