-- ==== Sys2Proof/Machine/DecodeTask.lean ====
section
/-! DEFINITION. The deferred decode task (`42_dispatch.md`): RUN_TASK and DECODE_STEP. -/

namespace Sys2Proof.Machine

/-- RUN_TASK (R172). -/
def execRunTask (s : State) : StepOutcome :=
  unlessFaulted s <|
    if s.decodeActive = true then finish s (.code .noopBusy)
    else if s.taskQ = 0 then finish s (.code .noopIdle)
    else finish s.startTask (.code .ok)

/-- The group at the receive read cursor (R173). -/
def headPacket (s : State) : Packet := ringPacket .rx s.cfg.cRx s.rxBuf s.rxRd

/-- DECODE_STEP (R173): the bookkeeping first, then the packet's own effect, then the re-arm (R174). -/
def execDecodeStep (s : State) : StepOutcome :=
  unlessFaulted s <|
    if s.decodeActive = false then finish s (.code .noopIdle)
    else if s.isOpen = false then finish s.endTask (.code .taskDone)
    else if s.rxCnt < 4 then finish (armRx s.endTask).1 (.code .taskDone)
    else
      let (t, r) := deliver s.consumeGroup (unpack (headPacket s))
      finish (armRx t).1 (.code r)

end Sys2Proof.Machine
end

