-- ==== Sys2Proof/Machine/Packets.lean ====
section
/-! DEFINITION. The sixteen Event Packet rows (`30_encoding.md` R80 to R95). Executing a packet is what the
block does with it when DECODE_STEP has consumed it from the receive ring: it goes to its cable's handler,
whatever its CIN, or is dropped (`42_dispatch.md` R173, R175, R177; log entry 7). -/

namespace Sys2Proof.Machine

/-- A packet delivered, and the result handed to the scheduler (R173). -/
def deliverPacket (u : Unpacked) (s : State) : StepOutcome := unlessFaulted s <| finishCode (deliver s u)

/-- A packet of CIN 0x0 (R80). -/
def execCin0Misc (cable : Nibble) (b1 b2 b3 : Byte) (s : State) : StepOutcome :=
  deliverPacket ⟨cable, 0x0#4, b1, b2, b3⟩ s

/-- A packet of CIN 0x1 (R81). -/
def execCin1CableEvent (cable : Nibble) (b1 b2 b3 : Byte) (s : State) : StepOutcome :=
  deliverPacket ⟨cable, 0x1#4, b1, b2, b3⟩ s

/-- A packet of CIN 0x2 (R82). -/
def execCin2Syscom2b (cable : Nibble) (b1 b2 b3 : Byte) (s : State) : StepOutcome :=
  deliverPacket ⟨cable, 0x2#4, b1, b2, b3⟩ s

/-- A packet of CIN 0x3 (R83). -/
def execCin3Syscom3b (cable : Nibble) (b1 b2 b3 : Byte) (s : State) : StepOutcome :=
  deliverPacket ⟨cable, 0x3#4, b1, b2, b3⟩ s

/-- A packet of CIN 0x4 (R84). -/
def execCin4SysexStartCont (cable : Nibble) (b1 b2 b3 : Byte) (s : State) : StepOutcome :=
  deliverPacket ⟨cable, 0x4#4, b1, b2, b3⟩ s

/-- A packet of CIN 0x5 (R85). -/
def execCin5SysexEnd1b (cable : Nibble) (b1 b2 b3 : Byte) (s : State) : StepOutcome :=
  deliverPacket ⟨cable, 0x5#4, b1, b2, b3⟩ s

/-- A packet of CIN 0x6 (R86). -/
def execCin6SysexEnd2b (cable : Nibble) (b1 b2 b3 : Byte) (s : State) : StepOutcome :=
  deliverPacket ⟨cable, 0x6#4, b1, b2, b3⟩ s

/-- A packet of CIN 0x7 (R87). -/
def execCin7SysexEnd3b (cable : Nibble) (b1 b2 b3 : Byte) (s : State) : StepOutcome :=
  deliverPacket ⟨cable, 0x7#4, b1, b2, b3⟩ s

/-- A packet of CIN 0x8 (R88). -/
def execCin8NoteOff (cable : Nibble) (b1 b2 b3 : Byte) (s : State) : StepOutcome :=
  deliverPacket ⟨cable, 0x8#4, b1, b2, b3⟩ s

/-- A packet of CIN 0x9 (R89). -/
def execCin9NoteOn (cable : Nibble) (b1 b2 b3 : Byte) (s : State) : StepOutcome :=
  deliverPacket ⟨cable, 0x9#4, b1, b2, b3⟩ s

/-- A packet of CIN 0xA (R90). -/
def execCinAPolyPressure (cable : Nibble) (b1 b2 b3 : Byte) (s : State) : StepOutcome :=
  deliverPacket ⟨cable, 0xA#4, b1, b2, b3⟩ s

/-- A packet of CIN 0xB (R91). -/
def execCinBControlChange (cable : Nibble) (b1 b2 b3 : Byte) (s : State) : StepOutcome :=
  deliverPacket ⟨cable, 0xB#4, b1, b2, b3⟩ s

/-- A packet of CIN 0xC (R92). -/
def execCinCProgramChange (cable : Nibble) (b1 b2 b3 : Byte) (s : State) : StepOutcome :=
  deliverPacket ⟨cable, 0xC#4, b1, b2, b3⟩ s

/-- A packet of CIN 0xD (R93). -/
def execCinDChannelPressure (cable : Nibble) (b1 b2 b3 : Byte) (s : State) : StepOutcome :=
  deliverPacket ⟨cable, 0xD#4, b1, b2, b3⟩ s

/-- A packet of CIN 0xE (R94). -/
def execCinEPitchBend (cable : Nibble) (b1 b2 b3 : Byte) (s : State) : StepOutcome :=
  deliverPacket ⟨cable, 0xE#4, b1, b2, b3⟩ s

/-- A packet of CIN 0xF (R95). -/
def execCinFSingleByte (cable : Nibble) (b1 b2 b3 : Byte) (s : State) : StepOutcome :=
  deliverPacket ⟨cable, 0xF#4, b1, b2, b3⟩ s

end Sys2Proof.Machine
end

