-- ==== Sys2Proof/Machine/Pump.lean ====
section
/-! DEFINITION. The transfer pump's operations (`40_transfer_pump.md`): OPEN, CLOSE, ARM_TX, ARM_RX,
COMPLETE_TX, COMPLETE_RX. -/

namespace Sys2Proof.Machine

/-- OPEN (R104). -/
def execOpen (s : State) : StepOutcome :=
  unlessFaulted s <|
    if s.isOpen = true then raiseFault s .openWhileOpen
    else if s.txState = .transferPending ∨ s.rxState = .transferPending then
      raiseFault s (.openWhilePending (s.txState = .transferPending) (s.rxState = .transferPending))
    else finish (armRx (armTx (s.restartRings.setOpen true)).1).1 (.code .ok)

/-- CLOSE (R105): nothing in flight is cancelled (R125). -/
def execClose (s : State) : StepOutcome :=
  unlessFaulted s <| finish (s.setOpen false) (.code .ok)

/-- ARM_TX (R108). -/
def execArmTx (s : State) : StepOutcome := unlessFaulted s <| finishCode (armTx s)

/-- ARM_RX (R112). -/
def execArmRx (s : State) : StepOutcome := unlessFaulted s <| finishCode (armRx s)

/-- The bookkeeping of a transmit completion: the advance on success, none on failure (R114, R115). -/
def settleTx (s : State) (status length : Nat) : State :=
  if status = 0 then s.advanceTx length else s

/-- COMPLETE_TX (R113). -/
def execCompleteTx (status length : Nat) (s : State) : StepOutcome :=
  unlessFaulted s <|
    if s.txState = .idle then raiseFault s (.spuriousCompletion .tx)
    else if s.isOpen = true ∧ status = 0 ∧ s.txXferLen < length then
      raiseFault s (.lengthOverrun .tx length s.txXferLen)
    else if s.isOpen = false then finish s.txToIdle (.code .ok)
    else finish (armTx (settleTx s.txToIdle status length)).1 (.code .ok)

/-- The bookkeeping of a receive completion: the bytes, the count and the task on success, none of them
on failure (R117, R118). -/
def settleRx (s : State) (status length : Nat) (data : List Byte) : State :=
  if status = 0 then s.receive length data else s

/-- COMPLETE_RX (R116). The last check is the model's: RXBUF has no index at or above its capacity (R50,
log entry 12). -/
def execCompleteRx (status length : Nat) (data : List Byte) (s : State) : StepOutcome :=
  unlessFaulted s <|
    if data.length ≠ length then .refused (.dataLengthMismatch length data.length)
    else if s.rxState = .idle then raiseFault s (.spuriousCompletion .rx)
    else if s.isOpen = true ∧ status = 0 ∧ s.rxXferLen < length then
      raiseFault s (.lengthOverrun .rx length s.rxXferLen)
    else if s.isOpen = false then finish s.rxToIdle (.code .ok)
    else if status = 0 ∧ 0 < length ∧ s.cfg.cRx < s.rxXferOff + length then
      .fault (.ringIndexOutOfRange .rx (s.rxXferOff + length - 1))
    else finish (armRx (settleRx s.rxToIdle status length data)).1 (.code .ok)

end Sys2Proof.Machine
end

