-- ==== Sys2Proof/Machine/Dispatch.lean ====
section
/-! DEFINITION. The one match that dispatches an instruction to its meaning. -/

namespace Sys2Proof.Machine

def exec (i : Instr) (s : State) : Host.Outcome State Fault Refusal :=
  match i with
  | .openDevice => Sys2Proof.Machine.execOpen s
  | .closeDevice => Sys2Proof.Machine.execClose s
  | .armTx => Sys2Proof.Machine.execArmTx s
  | .armRx => Sys2Proof.Machine.execArmRx s
  | .completeTx status length => Sys2Proof.Machine.execCompleteTx status length s
  | .completeRx status length data => Sys2Proof.Machine.execCompleteRx status length data s
  | .pack cable cin b1 b2 b3 => Sys2Proof.Machine.execPack cable cin b1 b2 b3 s
  | .encode cable msg => Sys2Proof.Machine.execEncode cable msg s
  | .decodePacket p0 p1 p2 p3 => Sys2Proof.Machine.execDecodePacket p0 p1 p2 p3 s
  | .runTask => Sys2Proof.Machine.execRunTask s
  | .decodeStep => Sys2Proof.Machine.execDecodeStep s
  | .send cable msg => Sys2Proof.Machine.execSend cable msg s
  | .noteOn cable channel note velocity => Sys2Proof.Machine.execNoteOn cable channel note velocity s
  | .noteOff cable channel note velocity => Sys2Proof.Machine.execNoteOff cable channel note velocity s
  | .controlChange cable channel controller value => Sys2Proof.Machine.execControlChange cable channel controller value s
  | .register cable present => Sys2Proof.Machine.execRegister cable present s
  | .cin0Misc cable b1 b2 b3 => Sys2Proof.Machine.execCin0Misc cable b1 b2 b3 s
  | .cin1CableEvent cable b1 b2 b3 => Sys2Proof.Machine.execCin1CableEvent cable b1 b2 b3 s
  | .cin2Syscom2b cable b1 b2 b3 => Sys2Proof.Machine.execCin2Syscom2b cable b1 b2 b3 s
  | .cin3Syscom3b cable b1 b2 b3 => Sys2Proof.Machine.execCin3Syscom3b cable b1 b2 b3 s
  | .cin4SysexStartCont cable b1 b2 b3 => Sys2Proof.Machine.execCin4SysexStartCont cable b1 b2 b3 s
  | .cin5SysexEnd1b cable b1 b2 b3 => Sys2Proof.Machine.execCin5SysexEnd1b cable b1 b2 b3 s
  | .cin6SysexEnd2b cable b1 b2 b3 => Sys2Proof.Machine.execCin6SysexEnd2b cable b1 b2 b3 s
  | .cin7SysexEnd3b cable b1 b2 b3 => Sys2Proof.Machine.execCin7SysexEnd3b cable b1 b2 b3 s
  | .cin8NoteOff cable b1 b2 b3 => Sys2Proof.Machine.execCin8NoteOff cable b1 b2 b3 s
  | .cin9NoteOn cable b1 b2 b3 => Sys2Proof.Machine.execCin9NoteOn cable b1 b2 b3 s
  | .cinAPolyPressure cable b1 b2 b3 => Sys2Proof.Machine.execCinAPolyPressure cable b1 b2 b3 s
  | .cinBControlChange cable b1 b2 b3 => Sys2Proof.Machine.execCinBControlChange cable b1 b2 b3 s
  | .cinCProgramChange cable b1 b2 b3 => Sys2Proof.Machine.execCinCProgramChange cable b1 b2 b3 s
  | .cinDChannelPressure cable b1 b2 b3 => Sys2Proof.Machine.execCinDChannelPressure cable b1 b2 b3 s
  | .cinEPitchBend cable b1 b2 b3 => Sys2Proof.Machine.execCinEPitchBend cable b1 b2 b3 s
  | .cinFSingleByte cable b1 b2 b3 => Sys2Proof.Machine.execCinFSingleByte cable b1 b2 b3 s

end Sys2Proof.Machine
end

