-- ==== Sys2Proof/Machine/Requests.lean ====
section
/-! DEFINITION. How an instruction comes to the block: the requests of the agents (`30_encoding.md` R71,
R72, `60_exceptions.md` R225) and the packets of the receive ring, the loading of a program of requests,
and the placing of one instruction where the next step takes it (log entries 2, 8, 9 and 10). -/

namespace Sys2Proof.Machine

/-- The agent whose row of R225 lists the operation; a packet is executed by the scheduler's DECODE_STEP. -/
def issuerOf : Instr → Agent
  | .openDevice => .lifecycle
  | .closeDevice => .lifecycle
  | .armTx => .lifecycle
  | .armRx => .lifecycle
  | .completeTx _ _ => .usbStack
  | .completeRx _ _ _ => .usbStack
  | .pack _ _ _ _ _ => .application
  | .encode _ _ => .application
  | .decodePacket _ _ _ _ => .application
  | .runTask => .scheduler
  | .decodeStep => .scheduler
  | .send _ _ => .application
  | .noteOn _ _ _ _ => .application
  | .noteOff _ _ _ _ => .application
  | .controlChange _ _ _ _ => .application
  | .register _ _ => .application
  | .cin0Misc _ _ _ _ => .scheduler
  | .cin1CableEvent _ _ _ _ => .scheduler
  | .cin2Syscom2b _ _ _ _ => .scheduler
  | .cin3Syscom3b _ _ _ _ => .scheduler
  | .cin4SysexStartCont _ _ _ _ => .scheduler
  | .cin5SysexEnd1b _ _ _ _ => .scheduler
  | .cin6SysexEnd2b _ _ _ _ => .scheduler
  | .cin7SysexEnd3b _ _ _ _ => .scheduler
  | .cin8NoteOff _ _ _ _ => .scheduler
  | .cin9NoteOn _ _ _ _ => .scheduler
  | .cinAPolyPressure _ _ _ _ => .scheduler
  | .cinBControlChange _ _ _ _ => .scheduler
  | .cinCProgramChange _ _ _ _ => .scheduler
  | .cinDChannelPressure _ _ _ _ => .scheduler
  | .cinEPitchBend _ _ _ _ => .scheduler
  | .cinFSingleByte _ _ _ _ => .scheduler

/-- "Which agent may issue which operation is given in `60_exceptions.md` rule R225" (R18): an agent may issue
the operations of its row and no other, the codec operations among the application's (R247, I17; log entry
10). -/
def mayIssue (a : Agent) (i : Instr) : Bool := a == issuerOf i

/-- The next operation and the state with its request taken, or why no operation is next: nothing waits
(R241), the bytes spell no operation (R96), the issuer may not issue it (R225). -/
def fetch (s : State) : Except Refusal (Instr × State) :=
  match s.requests with
  | [] => .error .noRequest
  | r :: rs =>
    match decodeRequest r.bytes with
    | .error e => .error (.invalidRequest e)
    | .ok i =>
      if mayIssue r.issuer i = true then .ok (i, s.withRequests rs)
      else .error (.wrongAgent r.issuer)

/-- A program of serialised operations, concatenated as in `95_test_vectors.md`, cut into requests, each
issued by the agent of its row of R225. Bytes that spell no operation become one last request, which no
step takes. The first argument bounds the number of requests. -/
def requestsOf : Nat → List Byte → List Request
  | 0, _ => []
  | n + 1, bs =>
    if bs.isEmpty then []
    else match decodeOp bs with
      | .ok (i, rest) => ⟨issuerOf i, bs.take (bs.length - rest.length)⟩ :: requestsOf n rest
      | .error _ => [⟨.lifecycle, bs⟩]

/-- The state with a program's requests waiting after those that already wait (log entry 9). -/
def State.withProgram (s : State) (bs : List Byte) : State :=
  s.withRequests (s.requests ++ requestsOf bs.length bs)

/-- The state with a request first in line. -/
def placeRequest (s : State) (r : Request) : State := s.withRequests (r :: s.requests)

/-- The state in which the next step is a DECODE_STEP that takes the given packet: the device open, a task
running, the packet at the receive read cursor, and the scheduler's request first in line. -/
def placePacket (s : State) (bs : List Byte) : State :=
  placeRequest
    { s with
      isOpen := true
      decodeActive := true
      rxBuf := ringWrite s.cfg.cRx s.rxBuf s.rxRd bs
      rxCnt := max s.rxCnt 4 }
    ⟨.scheduler, encode .decodeStep⟩

/-- The instruction of a row's word where the next step takes it. -/
def placeWord (s : State) (nbits w : Nat) : State :=
  match tableWord nbits w with
  | (.eventPacket, bs) => placePacket s bs
  | (.op, bs) =>
    match decodeOp bs with
    | .ok (i, _) => placeRequest s ⟨issuerOf i, bs⟩
    | .error _ => placeRequest s ⟨.lifecycle, bs⟩

end Sys2Proof.Machine
end

