-- ==== Sys2Proof/Machine/Step.lean ====
section
/-! DEFINITION. One step: the next request is taken, decoded and executed, atomically (`00_scope.md` R18).
While FAULT is not none there is no step (R36). -/

namespace Sys2Proof.Machine

def step (s : State) : Host.Outcome State Fault Refusal :=
  unlessFaulted s <|
    match fetch s with
    | .error r => .refused r
    | .ok (i, t) => exec i t

/-- The state with one instruction placed where `step` takes its next one (log entry 8). FAULT is left as
it is: a faulted instance takes no step whatever is placed. -/
def State.withFetchWord (s : State) (nbits w : Nat) : State := placeWord s nbits w

end Sys2Proof.Machine
end

