-- ==== Sys2Proof/Safety.lean ====
section
/-! DEFINITION. What claims about runs are stated in: running and not faulted, the invariants of
`10_state.md` R37, `20_memory.md` R66, `40_transfer_pump.md` R123 and `70_reset_and_hazards.md` R251, the
contents of the rings (R51), and what an operation that queues a packet leaves (R194). -/

namespace Sys2Proof.Machine

/-- A safe state: no collaborator has broken a contract (R36, R214). -/
def State.Safe (s : State) : Prop := s.fault = none

/-- Operations one after another, as if each were requested in turn; it stops at the first that gives no
next state. -/
def execAll : List Instr → State → StepOutcome
  | [], s => .next s
  | i :: is, s =>
    match exec i s with
    | .next t => execAll is t
    | .fault f => .fault f
    | .refused r => .refused r

/-! ### The rings' contents -/

/-- The values of `n` ring positions from a cursor, the oldest first (R51). -/
def ringBytes (d : Direction) (cap : Nat) (m : Memory) (start n : Nat) : List Byte :=
  (List.range n).map fun i => memRead d m ((start + i) % cap)

/-- The bytes queued for transmission, the oldest first (R51). -/
def State.txContents (s : State) : List Byte := ringBytes .tx s.cfg.cTx s.txBuf s.txRd s.txCnt

/-- The bytes received and not yet decoded, the oldest first (R51). -/
def State.rxContents (s : State) : List Byte := ringBytes .rx s.cfg.cRx s.rxBuf s.rxRd s.rxCnt

/-- The bytes an operation queues for transmission when it returns OK (R191, R197 to R199). -/
def sentBytes (c : Config) : Instr → List Byte
  | .send cable msg =>
    match messageOf msg with
    | some m => packetList (pack c (cableNibble cable) (cinOf m) m)
    | none => []
  | .noteOn cable channel note velocity =>
    packetList (pack c (cableNibble cable) 0x9#4 (.three (statusByte 0x90#8 channel) note velocity))
  | .noteOff cable channel note velocity =>
    packetList (pack c (cableNibble cable) 0x8#4 (.three (statusByte 0x80#8 channel) note velocity))
  | .controlChange cable channel controller value =>
    packetList (pack c (cableNibble cable) 0xB#4 (.three (statusByte 0xB0#8 channel) controller value))
  | _ => []

/-- How many transmit bytes a completion confirms: its length on success while open (R114, R119). -/
def confirmedBytes (s : State) : Instr → Nat
  | .completeTx 0 length => if s.isOpen = true then length else 0
  | _ => 0

/-- The bytes a completion delivers: its data on success while open (R117, R119). -/
def receivedBytes (s : State) : Instr → List Byte
  | .completeRx 0 _ data => if s.isOpen = true then data else []
  | _ => []

/-- How many received bytes an operation consumes: one group, when a running task finds one while open
(R173). -/
def decodedBytes (s : State) : Instr → Nat
  | .decodeStep => if s.decodeActive = true ∧ s.isOpen = true ∧ 4 ≤ s.rxCnt then 4 else 0
  | _ => 0

/-- The Dispatch events of a trace. -/
def dispatchesOf (tr : List Event) : List Event :=
  tr.filter fun
    | .dispatch _ _ _ _ _ => true
    | .submitTx _ _ _ => false
    | .submitRx _ _ => false

/-- The `j`-th group from the receive read cursor (R179). -/
def groupAt (s : State) (j : Nat) : Packet := ringPacket .rx s.cfg.cRx s.rxBuf (s.rxRd + 4 * j)

/-- The Dispatch event of a group whose cable has a handler (R175, R183). -/
def groupDispatch (s : State) (j : Nat) : Option Event :=
  let u := unpack (groupAt s j)
  let cable := rxCableOf s.cfg u.nibble
  if s.dispatchable cable = true then some (.dispatch cable u.cin u.b1 u.b2 u.b3) else none

/-! ### Invariants -/

/-- R37 for the transmit side, with the storage's canonical form, its extent (R50) and the presence of
every live byte (R43). -/
structure TxRingInv (s : State) : Prop where
  rd_lt      : s.txRd < s.cfg.cTx
  cnt_le     : s.txCnt ≤ s.cfg.cTx
  wr_aligned : s.txWr % 4 = 0
  in_flight  : s.txState = .transferPending →
    s.txXferOff = s.txRd ∧ 1 ≤ s.txXferLen ∧ s.txXferLen ≤ s.txCnt ∧
      s.txXferOff + s.txXferLen ≤ s.cfg.cTx
  canonical  : s.txBuf.wf = true
  in_range   : ∀ a, s.cfg.cTx ≤ a → storedByte s.txBuf a = none
  live       : ∀ i, i < s.txCnt → storedByte s.txBuf ((s.txRd + i) % s.cfg.cTx) ≠ none

/-- R37 for the receive side. -/
structure RxRingInv (s : State) : Prop where
  rd_lt      : s.rxRd < s.cfg.cRx
  cnt_le     : s.rxCnt ≤ s.cfg.cRx
  rd_aligned : s.rxRd % 4 = 0
  in_flight  : s.rxState = .transferPending →
    s.rxXferOff = s.rxWr ∧ 1 ≤ s.rxXferLen ∧ s.rxXferLen ≤ s.rxFree ∧
      s.rxXferOff + s.rxXferLen ≤ s.cfg.cRx
  canonical  : s.rxBuf.wf = true
  in_range   : ∀ a, s.cfg.cRx ≤ a → storedByte s.rxBuf a = none
  live       : ∀ i, i < s.rxCnt → storedByte s.rxBuf ((s.rxRd + i) % s.cfg.cRx) ≠ none

/-- The invariants of R37 and the hardwired bits of HANDLER_MASK (R33). -/
structure Inv (s : State) : Prop where
  tx   : TxRingInv s
  rx   : RxRingInv s
  mask : ∀ cable, s.cfg.nRx ≤ cable → s.handlerBit cable = false

/-- R123: while open, a pump is Idle only when it has nothing to do. -/
def PumpsBusy (s : State) : Prop :=
  s.isOpen = true →
    (s.txState = .transferPending ∨ s.txCnt = 0) ∧ (s.rxState = .transferPending ∨ s.rxFree = 0)

/-- R251: while open, a complete packet in the receive ring awaits a task. -/
def NoStrandedPacket (s : State) : Prop :=
  s.isOpen = true → 4 ≤ s.rxCnt → 1 ≤ s.taskQ ∨ s.decodeActive = true

/-- The offset, length and bytes of a transmit submit. -/
def submitTxOf : Event → Option (Nat × Nat × List Byte)
  | .submitTx off len bytes => some (off, len, bytes)
  | .submitRx _ _ => none
  | .dispatch _ _ _ _ _ => none

/-- The last transmit submit of a trace. -/
def lastSubmitTx (tr : List Event) : Option (Nat × Nat × List Byte) := (tr.filterMap submitTxOf).getLast?

/-- R66: while a transmit transfer is in flight, its region holds the bytes of its Submit event. -/
def InFlightBytes (s : State) : Prop :=
  s.txState = .transferPending →
    lastSubmitTx s.trace =
      some (s.txXferOff, s.txXferLen, memReadFrom .tx s.txBuf s.txXferOff s.txXferLen)

/-- Two states that differ at most in ring bytes no rule reads: those outside the live regions, and all of
them while the device is closed (R43, R51). -/
structure SameButDeadBytes (s t : State) : Prop where
  same : t = { s with txBuf := t.txBuf, rxBuf := t.rxBuf }
  tx   : s.isOpen = true → ∀ i, i < s.txCnt →
    storedByte t.txBuf ((s.txRd + i) % s.cfg.cTx) = storedByte s.txBuf ((s.txRd + i) % s.cfg.cTx)
  rx   : s.isOpen = true → ∀ i, i < s.rxCnt →
    storedByte t.rxBuf ((s.rxRd + i) % s.cfg.cRx) = storedByte s.rxBuf ((s.rxRd + i) % s.cfg.cRx)

/-- `t` is `s` after a packet of the bytes `p` is queued (R191, R193, R194): the bytes stand at the write
cursor and after it modulo the capacity, every other byte of TXBUF is as before, the count has grown by
the packet, an Idle pump has submitted the region at the read cursor, a pending one is left alone, and
nothing else has changed but the reply. -/
structure PacketQueued (s t : State) (p : List Byte) : Prop where
  stored : ∀ i v, p[i]? = some v → storedByte t.txBuf ((s.txRd + s.txCnt + i) % s.cfg.cTx) = some v
  kept   : ∀ a, (∀ i, i < p.length → a ≠ (s.txRd + s.txCnt + i) % s.cfg.cTx) →
    storedByte t.txBuf a = storedByte s.txBuf a
  rest   : t =
    if s.txState = .transferPending then
      { s with txBuf := t.txBuf, txCnt := s.txCnt + p.length, reply := some (.code .ok) }
    else
      let len := min (s.txCnt + p.length) (min (s.cfg.cTx - s.txRd) s.cfg.xferMaxTx)
      { s with
        txBuf := t.txBuf
        txCnt := s.txCnt + p.length
        txState := .transferPending
        txXferOff := s.txRd
        txXferLen := len
        trace := s.trace ++ [.submitTx s.txRd len (memReadFrom .tx t.txBuf s.txRd len)]
        reply := some (.code .ok) }

end Sys2Proof.Machine
end

