-- ==== Sys2Proof/Certificates/Slice0/Obligations.lean ====
section
/-! DEFINITION. The statements for the provers. Each docstring names the rules of spec/ it formalises; a
clause that rests on the model's own choice names the log entry. A free value stands in none of them: a
byte read is `memRead`, whatever it gives. -/

open Sys2Proof Sys2Proof.Machine

/-! ### Encoding -/

/-- R73, R74, R75: decoding what the encoder wrote gives the instruction back, and leaves the bytes after
it, for every well-formed instruction of both formats. -/
def Obligations.DecodeEncodeRoundTrip : Prop :=
  ∀ (i : Instr) (rest : List Byte), i.wellFormed = true → decode i.format (encode i ++ rest) = .ok (i, rest)

/-- R74, R99: what the decoder reads is well formed, of the format it was read as, and takes up exactly its
encoding's length; it is spelled by those bytes alone, but for REGISTER, whose `present` byte 0x00 is false and
whose every other `present` byte is true. -/
def Obligations.DecodedWordHasOneMeaning : Prop :=
  (∀ (f : Format) (bs : List Byte) (i : Instr) (rest : List Byte), decode f bs = .ok (i, rest) →
    i.wellFormed = true ∧ i.format = f ∧ (encode i).length + rest.length = bs.length ∧
    ((∀ cable present, i ≠ .register cable present) → encode i ++ rest = bs) ∧
    (∀ cable present, i = .register cable present →
      ∃ b : Byte, bs = 0x44#8 :: BitVec.ofNat 8 cable :: b :: rest ∧ (present = true ↔ b ≠ 0x00#8))) ∧
  ∀ (cable b : Byte) (rest : List Byte),
    decode .op (0x44#8 :: cable :: b :: rest) = .ok (.register cable.toNat (b != 0x00#8), rest)

/-- Words written out from R73 to R75 (serialisations of `95_test_vectors.md`) decode to what they spell. In the
last clause the word view is R55's, and that a 32-bit row is read as a packet is the model's choice (log entry
8). -/
def Obligations.SpecWordsDecode : Prop :=
  decodeRequest [0x01#8] = .ok .openDevice ∧
  decodeRequest [0x12#8, 0x01#8, 0x0A#8, 0x01#8] = .ok (.completeTx 1 266) ∧
  decodeRequest [0x13#8, 0x00#8, 0x04#8, 0x00#8, 0x28#8, 0x80#8, 0x3C#8, 0x00#8] =
    .ok (.completeRx 0 4 [0x28#8, 0x80#8, 0x3C#8, 0x00#8]) ∧
  decodeRequest [0x20#8, 0x0F#8, 0x0E#8, 0xF8#8, 0x01#8, 0x02#8] = .ok (.pack 15 14 0xF8#8 0x01#8 0x02#8) ∧
  decodeRequest [0x30#8] = .ok .runTask ∧
  decodeRequest [0x41#8, 0x01#8, 0x00#8, 0x3C#8, 0x64#8] = .ok (.noteOn 1 0 0x3C#8 0x64#8) ∧
  decodeRequest [0x40#8, 0x01#8, 0x03#8, 0x90#8, 0x3C#8, 0x64#8] =
    .ok (.send 1 [0x90#8, 0x3C#8, 0x64#8]) ∧
  decodeTableWord 32 0x003C8028 = some (.cin8NoteOff 0x2#4 0x80#8 0x3C#8 0x00#8)

/-- R96: an unassigned opcode byte, and every proper prefix of a serialisation, spell no operation, and a
request of such bytes has no step; that the request is the first of a list in State is the model's choice (log
entry 2). R116: a COMPLETE_RX whose `data` is not `length` bytes is refused, and no request spells one (log
entry 24). -/
def Obligations.InvalidRequestsHaveNoStep : Prop :=
  (∀ (op : Byte) (rest : List Byte),
    op.toNat ∉ [0x01, 0x02, 0x10, 0x11, 0x12, 0x13, 0x20, 0x21, 0x22, 0x30, 0x31, 0x40, 0x41, 0x42, 0x43, 0x44] →
      decodeRequest (op :: rest) = .error (.unassignedOpcode op)) ∧
  (∀ (i : Instr) (n : Nat), i.wellFormed = true → i.format = .op → n < (encode i).length →
    ∃ e, decodeRequest ((encode i).take n) = .error e) ∧
  (∀ (s : State) (r : Request) (rs : List Request) (e : DecodeError), s.fault = none →
    s.requests = r :: rs → decodeRequest r.bytes = .error e → step s = .refused (.invalidRequest e)) ∧
  (∀ (s : State) (status length : Nat) (data : List Byte), s.fault = none → data.length ≠ length →
    exec (.completeRx status length data) s = .refused (.dataLengthMismatch length data.length) ∧
    ∀ bs, decodeRequest bs ≠ .ok (.completeRx status length data))

/-- The host's placing of a row's word: the next step runs exactly the instruction the decoder reads from
it, an operation as the first request, a packet at the head of the receive ring (log entry 8). -/
def Obligations.PlacedWordRuns : Prop :=
  ∀ (s : State) (nbits w : Nat) (i : Instr), s.fault = none → decodeTableWord nbits w = some i →
    (i.format = .op → step (s.withFetchWord nbits w) = exec i s) ∧
    (i.format = .eventPacket →
      step (s.withFetchWord nbits w) =
        exec .decodeStep { s.withFetchWord nbits w with requests := s.requests } ∧
      decode .eventPacket (packetList (headPacket (s.withFetchWord nbits w))) = .ok (i, []))

/-! ### Codec -/

/-- R150, for the identity maps: unpacking a packed packet gives its parts back, also through ENCODE, and
packing the parts of any four bytes gives the bytes back. -/
def Obligations.PackUnpackRoundTrip : Prop :=
  ∀ c : Config, c.strategy = .shared →
    (∀ (cable cin : Nibble) (b1 b2 b3 : Byte),
      unpack (pack c cable cin (.three b1 b2 b3)) = ⟨cable, cin, b1, b2, b3⟩) ∧
    (∀ (s : State) (cable : Nibble) (msg : List Byte) (m : Message), s.cfg = c → s.fault = none →
      messageOf msg = some m →
      ∃ p, exec (.encode cable.toNat msg) s = .next { s with reply := some (.packet p) } ∧
        unpack p = ⟨cable, cinOf m, msg.getD 0 0x00#8, msg.getD 1 0x00#8, msg.getD 2 0x00#8⟩) ∧
    (∀ q : Packet, pack c (unpack q).nibble (unpack q).cin (.three (unpack q).b1 (unpack q).b2 (unpack q).b3) = q)

/-- R141: the CIN by first byte, for every first byte and every message of one to three bytes. -/
def Obligations.CinOfFollowsFirstByte : Prop :=
  ∀ m : Message,
    let s := (messageStatus m).toNat
    let n := messageLen m
    let last := (messageLast m).toNat
    (s ≤ 0x7F ∨ s = 0xF0 → (cinOf m).toNat =
      if n = 2 ∧ last = 0xF7 then 0x6 else if n = 3 ∧ last = 0xF7 then 0x7 else 0x4) ∧
    (0x80 ≤ s → s ≤ 0xEF → (cinOf m).toNat = s / 16) ∧
    (s = 0xF1 ∨ s = 0xF3 → (cinOf m).toNat = 0x2) ∧
    (s = 0xF2 → (cinOf m).toNat = 0x3) ∧
    (s = 0xF4 ∨ s = 0xF5 → (cinOf m).toNat = 0x0) ∧
    (s = 0xF6 → (cinOf m).toNat = 0xF) ∧
    (s = 0xF7 → (cinOf m).toNat = if n = 1 then 0x5 else 0x0) ∧
    (0xF8 ≤ s → (cinOf m).toNat = 0xF)

/-- R143, R144: PACK of a cable and a CIN below 16 returns header 16 * nibble + CIN and the three bytes
unchanged; a cable, else a CIN, of 16 and above is refused; nothing is written. -/
def Obligations.PackReturnsPacket : Prop :=
  ∀ (s : State) (cable cin : Nat) (b1 b2 b3 : Byte), s.fault = none →
    (cable < 16 → cin < 16 →
      exec (.pack cable cin b1 b2 b3) s = .next { s with
        reply := some (.packet
          ⟨BitVec.ofNat 8 (16 * (txNibbleOf s.cfg (BitVec.ofNat 4 cable)).toNat + cin), b1, b2, b3⟩) }) ∧
    (16 ≤ cable →
      exec (.pack cable cin b1 b2 b3) s = .next { s with reply := some (.code .rejectCableRange) }) ∧
    (cable < 16 → 16 ≤ cin →
      exec (.pack cable cin b1 b2 b3) s = .next { s with reply := some (.code .rejectCinRange) })

/-- R145, R144: ENCODE of a cable below 16 and a message of one to three bytes returns the header with the
message's CIN and the bytes unchanged, zero-padded; a cable of 16 and above, else a message of no byte or of
more than three, is refused; nothing is written. The message is the byte list itself: its `n`, its first and its
last byte, by which CinOf goes (CinOfFollowsFirstByte), are the list's. -/
def Obligations.EncodeReturnsPacket : Prop :=
  ∀ (s : State) (cable : Nat) (msg : List Byte), s.fault = none →
    (∀ m, cable < 16 → messageOf msg = some m →
      exec (.encode cable msg) s = .next { s with
        reply := some (.packet
          ⟨BitVec.ofNat 8 (16 * (txNibbleOf s.cfg (BitVec.ofNat 4 cable)).toNat + (cinOf m).toNat),
            msg.getD 0 0x00#8, msg.getD 1 0x00#8, msg.getD 2 0x00#8⟩) }) ∧
    (1 ≤ msg.length → msg.length ≤ 3 → ∃ m, messageOf msg = some m) ∧
    (∀ m, messageOf msg = some m → messageLen m = msg.length ∧
      msg.head? = some (messageStatus m) ∧ msg.getLast? = some (messageLast m)) ∧
    (16 ≤ cable →
      exec (.encode cable msg) s = .next { s with reply := some (.code .rejectCableRange) }) ∧
    (cable < 16 → msg.length < 1 ∨ 3 < msg.length →
      exec (.encode cable msg) s = .next { s with reply := some (.code .rejectLength) })

/-- R148, R149, R77: DECODE_PACKET of any four bytes returns nibble, CIN and the three bytes whole, and
writes nothing. -/
def Obligations.DecodePacketReturnsTuple : Prop :=
  ∀ (s : State) (p0 p1 p2 p3 : Byte), s.fault = none →
    exec (.decodePacket p0 p1 p2 p3) s = .next { s with
      reply := some (.unpacked ⟨BitVec.ofNat 4 (p0.toNat / 16), BitVec.ofNat 4 (p0.toNat % 16), p1, p2, p3⟩) }

/-- R140: the codec operations write no register, and their result is one function of the operands (and the
configuration), whatever the registers hold: a request of theirs is a step with that result, open or closed
and whatever the pumps' states. The agent that may issue such a request is R225's, the application (R140 says
any agent; the two rules disagree: log entry 10). That the request is the first of a list is log entry 2. -/
def Obligations.CodecOpsArePure : Prop :=
  ∀ (i : Instr) (c : Config),
    ((∃ cable cin b1 b2 b3, i = .pack cable cin b1 b2 b3) ∨ (∃ cable msg, i = .encode cable msg) ∨
      (∃ p0 p1 p2 p3, i = .decodePacket p0 p1 p2 p3)) →
    (∃ r : Reply, ∀ s : State, s.cfg = c → s.fault = none → exec i s = .next { s with reply := some r } ∧
      ∀ (bs : List Byte) (rs : List Request), s.requests = ⟨.application, bs⟩ :: rs →
        decodeRequest bs = .ok i → step s = .next { s with requests := rs, reply := some r }) ∧
    ∀ a : Agent, mayIssue a i = true ↔ a = .application

/-! ### The transfer pump -/

/-- R104: OPEN of a closed instance with both pumps Idle empties the rings, clears the tasks, and arms the
receive pump only; while open, else while a transfer is pending, it faults and changes nothing but FAULT. That
a fault leaves no reply is log entry 4; that the storages keep their bytes across OPEN is log entry 6. -/
def Obligations.OpenRestartsAndArmsReceive : Prop :=
  ∀ s : State, s.fault = none →
    (s.isOpen = false → s.txState = .idle → s.rxState = .idle →
      exec .openDevice s = .next { s with
        isOpen := true
        txRd := 0
        txCnt := 0
        rxRd := 0
        rxCnt := 0
        taskQ := 0
        decodeActive := false
        rxState := .transferPending
        rxXferOff := 0
        rxXferLen := min s.cfg.cRx s.cfg.xferMaxRx
        trace := s.trace ++ [.submitRx 0 (min s.cfg.cRx s.cfg.xferMaxRx)]
        reply := some (.code .ok) }) ∧
    (s.isOpen = true → exec .openDevice s = .next { s with fault := some .openWhileOpen, reply := none }) ∧
    (s.isOpen = false → s.txState = .transferPending ∨ s.rxState = .transferPending →
      exec .openDevice s = .next { s with
        fault := some (.openWhilePending (s.txState = .transferPending) (s.rxState = .transferPending))
        reply := none })

/-- R105, R125: CLOSE clears OPEN and leaves everything else, the transfers in flight too. That the storages
keep their bytes across CLOSE is log entry 6. -/
def Obligations.CloseKeepsTransfersInFlight : Prop :=
  ∀ s : State, s.fault = none →
    exec .closeDevice s = .next { s with isOpen := false, reply := some (.code .ok) }

/-- R108, R106: ARM_TX, its four outcomes. -/
def Obligations.ArmTxSubmitsRegion : Prop :=
  ∀ s : State, s.fault = none →
    (s.isOpen = true → s.txState = .idle → s.txCnt ≠ 0 →
      let len := min s.txCnt (min (s.cfg.cTx - s.txRd) s.cfg.xferMaxTx)
      exec .armTx s = .next { s with
        txState := .transferPending
        txXferOff := s.txRd
        txXferLen := len
        trace := s.trace ++
          [.submitTx s.txRd len ((List.range len).map fun i => memRead .tx s.txBuf (s.txRd + i))]
        reply := some (.code .armed) }) ∧
    (s.isOpen = false → exec .armTx s = .next { s with reply := some (.code .noopClosed) }) ∧
    (s.isOpen = true → s.txState = .transferPending →
      exec .armTx s = .next { s with reply := some (.code .noopPending) }) ∧
    (s.isOpen = true → s.txState = .idle → s.txCnt = 0 →
      exec .armTx s = .next { s with reply := some (.code .noopEmpty) })

/-- R112, R107, R111: ARM_RX, its four outcomes. -/
def Obligations.ArmRxSubmitsRegion : Prop :=
  ∀ s : State, s.fault = none →
    (s.isOpen = true → s.rxState = .idle → s.cfg.cRx - s.rxCnt ≠ 0 →
      let off := (s.rxRd + s.rxCnt) % s.cfg.cRx
      let len := min (s.cfg.cRx - s.rxCnt) (min (s.cfg.cRx - off) s.cfg.xferMaxRx)
      exec .armRx s = .next { s with
        rxState := .transferPending
        rxXferOff := off
        rxXferLen := len
        trace := s.trace ++ [.submitRx off len]
        reply := some (.code .armed) }) ∧
    (s.isOpen = false → exec .armRx s = .next { s with reply := some (.code .noopClosed) }) ∧
    (s.isOpen = true → s.rxState = .transferPending →
      exec .armRx s = .next { s with reply := some (.code .noopPending) }) ∧
    (s.isOpen = true → s.rxState = .idle → s.cfg.cRx - s.rxCnt = 0 →
      exec .armRx s = .next { s with reply := some (.code .noopFull) })

/-- R101, R108, R109, R112: once an arm attempt has returned ARMED, its pump is TransferPending, and after any
operations none of which completes that direction, every further attempt writes nothing: while open it returns
NOOP_PENDING, after a CLOSE it returns NOOP_CLOSED. R109 alone gives NOOP_PENDING there too; R108 and R112 test
OPEN first, and the model follows them (log entry 25). -/
def Obligations.RearmIsIdempotent : Prop :=
  ∀ (is : List Instr) (s t u : State), execAll is t = .next u → u.fault = none →
    (exec .armTx s = .next t → t.reply = some (.code .armed) →
      (∀ i ∈ is, ∀ status length, i ≠ .completeTx status length) →
      t.txState = .transferPending ∧ u.txState = .transferPending ∧
      exec .armTx u = .next { u with
        reply := some (.code (if u.isOpen = true then .noopPending else .noopClosed)) }) ∧
    (exec .armRx s = .next t → t.reply = some (.code .armed) →
      (∀ i ∈ is, ∀ status length data, i ≠ .completeRx status length data) →
      t.rxState = .transferPending ∧ u.rxState = .transferPending ∧
      exec .armRx u = .next { u with
        reply := some (.code (if u.isOpen = true then .noopPending else .noopClosed)) })

/-- R121, R214, R221: the stack's two contract breaches fault, on both directions, with the information
R214 records, and change nothing but FAULT. That a fault leaves no reply is log entry 4. -/
def Obligations.CompletionContractFaults : Prop :=
  ∀ (s : State) (status length : Nat) (data : List Byte), s.fault = none →
    (s.txState = .idle →
      exec (.completeTx status length) s =
        .next { s with fault := some (.spuriousCompletion .tx), reply := none }) ∧
    (s.rxState = .idle →
      exec (.completeRx status data.length data) s =
        .next { s with fault := some (.spuriousCompletion .rx), reply := none }) ∧
    (s.txState = .transferPending → s.isOpen = true → s.txXferLen < length →
      exec (.completeTx 0 length) s =
        .next { s with fault := some (.lengthOverrun .tx length s.txXferLen), reply := none }) ∧
    (s.rxState = .transferPending → s.isOpen = true → s.rxXferLen < data.length →
      exec (.completeRx 0 data.length data) s =
        .next { s with fault := some (.lengthOverrun .rx data.length s.rxXferLen), reply := none })

/-- R113, R114, R64: a successful transmit completion advances the read cursor by the bytes transferred,
then arms from the advanced cursor if bytes remain. -/
def Obligations.TransmitSuccessAdvancesThenRearms : Prop :=
  ∀ (s : State) (length : Nat), s.fault = none → s.isOpen = true → s.txState = .transferPending →
    length ≤ s.txXferLen →
    let rd := (s.txRd + length) % s.cfg.cTx
    let cnt := s.txCnt - length
    let len := min cnt (min (s.cfg.cTx - rd) s.cfg.xferMaxTx)
    exec (.completeTx 0 length) s = .next (
      if cnt = 0 then { s with txState := .idle, txRd := rd, txCnt := cnt, reply := some (.code .ok) }
      else { s with
        txRd := rd
        txCnt := cnt
        txXferOff := rd
        txXferLen := len
        trace := s.trace ++ [.submitTx rd len ((List.range len).map fun i => memRead .tx s.txBuf (rd + i))]
        reply := some (.code .ok) })

/-- R115: a failed transmit completion of any length moves no cursor and submits again from the same read
cursor. -/
def Obligations.TransmitFailureResubmits : Prop :=
  ∀ (s : State) (status length : Nat), s.fault = none → s.isOpen = true → s.txState = .transferPending →
    TxRingInv s → status ≠ 0 →
    let len := min s.txCnt (min (s.cfg.cTx - s.txRd) s.cfg.xferMaxTx)
    exec (.completeTx status length) s = .next { s with
      txXferOff := s.txRd
      txXferLen := len
      trace := s.trace ++
        [.submitTx s.txRd len ((List.range len).map fun i => memRead .tx s.txBuf (s.txRd + i))]
      reply := some (.code .ok) }

/-- R117, R107: a successful receive completion stores its bytes at the offered region, which starts at the
write cursor and does not wrap, and nothing elsewhere, advances the count by them, enqueues one task, and offers
the free run at the advanced write cursor if there is one. -/
def Obligations.ReceiveSuccessStoresThenRearms : Prop :=
  ∀ (s : State) (data : List Byte), s.fault = none → s.isOpen = true → s.rxState = .transferPending →
    RxRingInv s → data.length ≤ s.rxXferLen →
    let cnt := s.rxCnt + data.length
    let off := (s.rxRd + cnt) % s.cfg.cRx
    let len := min (s.cfg.cRx - cnt) (min (s.cfg.cRx - off) s.cfg.xferMaxRx)
    s.rxXferOff = (s.rxRd + s.rxCnt) % s.cfg.cRx ∧ s.rxXferOff + data.length ≤ s.cfg.cRx ∧ cnt ≤ s.cfg.cRx ∧
    ∃ t, exec (.completeRx 0 data.length data) s = .next t ∧
      (∀ i v, data[i]? = some v → storedByte t.rxBuf (s.rxXferOff + i) = some v) ∧
      (∀ a, a < s.rxXferOff ∨ s.rxXferOff + data.length ≤ a → storedByte t.rxBuf a = storedByte s.rxBuf a) ∧
      t = if s.cfg.cRx = cnt then
        { s with
          rxBuf := t.rxBuf
          rxCnt := cnt
          taskQ := s.taskQ + 1
          rxState := .idle
          reply := some (.code .ok) }
      else
        { s with
          rxBuf := t.rxBuf
          rxCnt := cnt
          taskQ := s.taskQ + 1
          rxXferOff := off
          rxXferLen := len
          trace := s.trace ++ [.submitRx off len]
          reply := some (.code .ok) }

/-- R118: a failed receive completion stores nothing, advances nothing and enqueues no task; the re-arm is
still attempted, and submits. -/
def Obligations.ReceiveFailureRearms : Prop :=
  ∀ (s : State) (status : Nat) (data : List Byte), s.fault = none → s.isOpen = true →
    s.rxState = .transferPending → RxRingInv s → status ≠ 0 →
    let off := (s.rxRd + s.rxCnt) % s.cfg.cRx
    let len := min (s.cfg.cRx - s.rxCnt) (min (s.cfg.cRx - off) s.cfg.xferMaxRx)
    exec (.completeRx status data.length data) s = .next { s with
      rxXferOff := off
      rxXferLen := len
      trace := s.trace ++ [.submitRx off len]
      reply := some (.code .ok) }

/-- R119: a completion that arrives while closed returns its pump to Idle and does nothing else, whatever
its status and length. -/
def Obligations.CompletionAfterCloseOnlyIdles : Prop :=
  ∀ (s : State) (status length : Nat) (data : List Byte), s.fault = none → s.isOpen = false →
    (s.txState = .transferPending →
      exec (.completeTx status length) s = .next { s with txState := .idle, reply := some (.code .ok) }) ∧
    (s.rxState = .transferPending →
      exec (.completeRx status data.length data) s =
        .next { s with rxState := .idle, reply := some (.code .ok) })

/-- R71, R115, R118: of a status only zero or non-zero matters, and a failed completion's length and data
are ignored. -/
def Obligations.OnlyZeroStatusMatters : Prop :=
  ∀ (s : State) (status status' length length' : Nat) (data data' : List Byte), status ≠ 0 → status' ≠ 0 →
    exec (.completeTx status length) s = exec (.completeTx status' length') s ∧
    exec (.completeRx status data.length data) s = exec (.completeRx status' data'.length data') s

/-- R63: no operation but OPEN, which empties the rings, moves the transmit read cursor or shortens the
transmit ring except a completion of status zero of a pending transfer, by the length it reports, and none
lengthens the receive ring except such a completion on the receive side. -/
def Obligations.CursorsFollowConfirmedBytes : Prop :=
  ∀ (i : Instr) (s t : State), exec i s = .next t → i ≠ .openDevice →
    (t.txRd ≠ s.txRd ∨ t.txCnt < s.txCnt → ∃ length, i = .completeTx 0 length ∧
      s.txState = .transferPending ∧ length ≤ s.txXferLen ∧
      t.txRd = (s.txRd + length) % s.cfg.cTx ∧ t.txCnt = s.txCnt - length) ∧
    (s.rxCnt < t.rxCnt → ∃ length data, i = .completeRx 0 length data ∧
      s.rxState = .transferPending ∧ length ≤ s.rxXferLen ∧ t.rxCnt = s.rxCnt + length)

/-! ### The decode task -/

/-- R172: RUN_TASK, its three outcomes. -/
def Obligations.RunTaskStartsOneTask : Prop :=
  ∀ s : State, s.fault = none →
    (s.decodeActive = false → s.taskQ ≠ 0 →
      exec .runTask s = .next { s with
        taskQ := s.taskQ - 1, decodeActive := true, reply := some (.code .ok) }) ∧
    (s.decodeActive = true → exec .runTask s = .next { s with reply := some (.code .noopBusy) }) ∧
    (s.decodeActive = false → s.taskQ = 0 →
      exec .runTask s = .next { s with reply := some (.code .noopIdle) })

/-- R173, R182: DECODE_STEP where it consumes nothing: no task runs, the device is closed, or fewer than
four bytes are there, which stay in the ring while an Idle receive pump is armed. -/
def Obligations.DecodeStepWithoutGroupEndsTask : Prop :=
  ∀ s : State, s.fault = none →
    (s.decodeActive = false → exec .decodeStep s = .next { s with reply := some (.code .noopIdle) }) ∧
    (s.decodeActive = true → s.isOpen = false →
      exec .decodeStep s = .next { s with decodeActive := false, reply := some (.code .taskDone) }) ∧
    (s.decodeActive = true → s.isOpen = true → s.rxCnt < 4 →
      let off := (s.rxRd + s.rxCnt) % s.cfg.cRx
      let len := min (s.cfg.cRx - s.rxCnt) (min (s.cfg.cRx - off) s.cfg.xferMaxRx)
      exec .decodeStep s = .next (
        if s.rxState = .transferPending then
          { s with decodeActive := false, reply := some (.code .taskDone) }
        else
          { s with
            decodeActive := false
            rxState := .transferPending
            rxXferOff := off
            rxXferLen := len
            trace := s.trace ++ [.submitRx off len]
            reply := some (.code .taskDone) }))

/-- R173 to R177, R183: DECODE_STEP where a group is there: the cursor past it, the packet dispatched to its
cable's handler if there is one and dropped otherwise, then an Idle receive pump armed. For Shared the cable is
the packet's nibble (R7, R176). -/
def Obligations.DecodeStepConsumesGroup : Prop :=
  ∀ s : State, s.fault = none → s.decodeActive = true → s.isOpen = true → 4 ≤ s.rxCnt → RxRingInv s →
    let b := fun i => memRead .rx s.rxBuf ((s.rxRd + i) % s.cfg.cRx)
    let cable := rxCableOf s.cfg (BitVec.ofNat 4 ((b 0).toNat / 16))
    let cin := BitVec.ofNat 4 ((b 0).toNat % 16)
    let delivered := cable.toNat < s.cfg.nRx ∧ s.handlerMask.getLsbD cable.toNat = true
    let off := (s.rxRd + s.rxCnt) % s.cfg.cRx
    let len := min (s.cfg.cRx - (s.rxCnt - 4)) (min (s.cfg.cRx - off) s.cfg.xferMaxRx)
    let events := if delivered then [Event.dispatch cable cin (b 1) (b 2) (b 3)] else []
    let reply := some (Reply.code (if delivered then .dispatched else .dropped))
    (s.cfg.strategy = .shared → cable.toNat = (b 0).toNat / 16) ∧
    exec .decodeStep s = .next (
      if s.rxState = .transferPending then
        { s with
          rxRd := (s.rxRd + 4) % s.cfg.cRx
          rxCnt := s.rxCnt - 4
          trace := s.trace ++ events
          reply := reply }
      else
        { s with
          rxRd := (s.rxRd + 4) % s.cfg.cRx
          rxCnt := s.rxCnt - 4
          rxState := .transferPending
          rxXferOff := off
          rxXferLen := len
          trace := s.trace ++ events ++ [.submitRx off len]
          reply := reply })

/-- A DECODE_STEP that finds a group runs the packet the decoder reads there: its state is that of the
packet's own execution after the bookkeeping, with the arm attempt that follows (R173, log entry 7). -/
def Obligations.DecodeStepRunsHeadPacket : Prop :=
  ∀ s : State, s.fault = none → s.decodeActive = true → s.isOpen = true → 4 ≤ s.rxCnt →
    ∃ i t, decode .eventPacket (packetList (headPacket s)) = .ok (i, []) ∧
      exec i s.consumeGroup = .next t ∧ exec .decodeStep s = .next (armRx t).1

/-- R175, R177, R183, R80 to R95: each of the sixteen packet rows is delivered to its cable's handler with
its own CIN, or dropped without a trace, and changes nothing else. For Shared that cable is the packet's nibble
(R7, R176). -/
def Obligations.PacketsAreDeliveredOrDropped : Prop :=
  ∀ (s : State) (cable : Nibble) (b1 b2 b3 : Byte), s.fault = none →
    ∀ p ∈ [(0x0#4, Instr.cin0Misc cable b1 b2 b3), (0x1#4, Instr.cin1CableEvent cable b1 b2 b3),
      (0x2#4, Instr.cin2Syscom2b cable b1 b2 b3), (0x3#4, Instr.cin3Syscom3b cable b1 b2 b3),
      (0x4#4, Instr.cin4SysexStartCont cable b1 b2 b3), (0x5#4, Instr.cin5SysexEnd1b cable b1 b2 b3),
      (0x6#4, Instr.cin6SysexEnd2b cable b1 b2 b3), (0x7#4, Instr.cin7SysexEnd3b cable b1 b2 b3),
      (0x8#4, Instr.cin8NoteOff cable b1 b2 b3), (0x9#4, Instr.cin9NoteOn cable b1 b2 b3),
      (0xA#4, Instr.cinAPolyPressure cable b1 b2 b3), (0xB#4, Instr.cinBControlChange cable b1 b2 b3),
      (0xC#4, Instr.cinCProgramChange cable b1 b2 b3), (0xD#4, Instr.cinDChannelPressure cable b1 b2 b3),
      (0xE#4, Instr.cinEPitchBend cable b1 b2 b3), (0xF#4, Instr.cinFSingleByte cable b1 b2 b3)],
      let c := rxCableOf s.cfg cable
      (s.cfg.strategy = .shared → c = cable) ∧
      exec p.2 s = .next (
        if c.toNat < s.cfg.nRx ∧ s.handlerMask.getLsbD c.toNat = true then
          { s with trace := s.trace ++ [.dispatch c p.1 b1 b2 b3], reply := some (.code .dispatched) }
        else { s with reply := some (.code .dropped) })

/-- R179, R181: a running task that starts with 4k + r bytes takes exactly k consuming steps and one
TASK_DONE, leaves the r bytes at the read cursor, and dispatches the registered packets in ring order, all
k of them when every packet's cable is registered. -/
def Obligations.PartialGroupIsLeftUnconsumed : Prop :=
  ∀ (s : State) (k r : Nat), s.fault = none → s.isOpen = true → s.decodeActive = true → RxRingInv s →
    s.rxCnt = 4 * k + r → r < 4 →
    (∀ j, j < k → ∃ u, execAll (List.replicate (j + 1) .decodeStep) s = .next u ∧
      (u.reply = some (.code .dispatched) ∨ u.reply = some (.code .dropped))) ∧
    ∃ t, execAll (List.replicate (k + 1) .decodeStep) s = .next t ∧
      t.reply = some (.code .taskDone) ∧ t.decodeActive = false ∧
      t.rxCnt = r ∧ t.rxRd = (s.rxRd + 4 * k) % s.cfg.cRx ∧ t.rxBuf = s.rxBuf ∧
      dispatchesOf t.trace = dispatchesOf s.trace ++ (List.range k).filterMap (groupDispatch s) ∧
      ((∀ j, j < k → s.dispatchable (rxCableOf s.cfg (unpack (groupAt s j)).nibble) = true) →
        (dispatchesOf t.trace).length = (dispatchesOf s.trace).length + k)

/-! ### The application's operations -/

/-- R191: SEND of any cable below 16 and any message of one to three bytes, while open with four bytes free,
queues the packet whole and makes an arm attempt; its refusals in their order write nothing. -/
def Obligations.SendQueuesPacket : Prop :=
  ∀ (s : State) (cable : Nat) (msg : List Byte), s.fault = none →
    (∀ m, cable < 16 → messageOf msg = some m → s.isOpen = true → 4 ≤ s.cfg.cTx - s.txCnt →
      ∃ t, exec (.send cable msg) s = .next t ∧
        PacketQueued s t
          [BitVec.ofNat 8 (16 * (txNibbleOf s.cfg (BitVec.ofNat 4 cable)).toNat + (cinOf m).toNat),
            msg.getD 0 0x00#8, msg.getD 1 0x00#8, msg.getD 2 0x00#8]) ∧
    (1 ≤ msg.length → msg.length ≤ 3 → ∃ m, messageOf msg = some m) ∧
    (16 ≤ cable → exec (.send cable msg) s = .next { s with reply := some (.code .rejectCableRange) }) ∧
    (cable < 16 → msg.length < 1 ∨ 3 < msg.length →
      exec (.send cable msg) s = .next { s with reply := some (.code .rejectLength) }) ∧
    (cable < 16 → 1 ≤ msg.length → msg.length ≤ 3 → s.isOpen = false →
      exec (.send cable msg) s = .next { s with reply := some (.code .rejectNotOpen) }) ∧
    (cable < 16 → 1 ≤ msg.length → msg.length ≤ 3 → s.isOpen = true → s.cfg.cTx - s.txCnt < 4 →
      exec (.send cable msg) s = .next { s with reply := some (.code .bufferFull) })

/-- R197 to R200: each helper with a channel and a cable below 16, while open with four bytes free, queues
its three-byte message: status base + channel, the two bytes unchanged, the CIN of its category. -/
def Obligations.HelpersQueuePacket : Prop :=
  ∀ (s : State) (cable channel : Nat) (b1 b2 : Byte), s.fault = none → channel < 16 → cable < 16 →
    s.isOpen = true → 4 ≤ s.cfg.cTx - s.txCnt →
    ∀ p ∈ [(0x90, Instr.noteOn cable channel b1 b2), (0x80, Instr.noteOff cable channel b1 b2),
      (0xB0, Instr.controlChange cable channel b1 b2)],
      ∃ t, exec p.2 s = .next t ∧
        PacketQueued s t
          [BitVec.ofNat 8 (16 * (txNibbleOf s.cfg (BitVec.ofNat 4 cable)).toNat + p.1 / 16),
            BitVec.ofNat 8 (p.1 + channel), b1, b2]

/-- R200, R221: a helper refuses a channel of 16 and above before anything else is checked; otherwise it is
exactly one SEND. -/
def Obligations.HelpersAreOneSend : Prop :=
  ∀ (s : State) (cable channel : Nat) (b1 b2 : Byte), s.fault = none →
    ∀ p ∈ [(0x90, Instr.noteOn cable channel b1 b2), (0x80, Instr.noteOff cable channel b1 b2),
      (0xB0, Instr.controlChange cable channel b1 b2)],
      (16 ≤ channel → exec p.2 s = .next { s with reply := some (.code .rejectChannelRange) }) ∧
      (channel < 16 → exec p.2 s = exec (.send cable [BitVec.ofNat 8 (p.1 + channel), b1, b2]) s)

/-- R201: REGISTER below N_RX writes its cable's bit of HANDLER_MASK and no other; at or above N_RX it is
refused. -/
def Obligations.RegisterWritesOneBit : Prop :=
  ∀ (s : State) (cable : Nat) (present : Bool), s.fault = none →
    (cable < s.cfg.nRx → ∃ m : Mask,
      exec (.register cable present) s = .next { s with handlerMask := m, reply := some (.code .ok) } ∧
      ∀ c, c < 16 → m.getLsbD c = if c = cable then present else s.handlerMask.getLsbD c) ∧
    (s.cfg.nRx ≤ cable →
      exec (.register cable present) s = .next { s with reply := some (.code .rejectCableRange) })

/-! ### The whole machine -/

/-- R40, R22 to R27, R29, R31 to R36: which operations may change which register. A pump leaves Idle only in an
arm attempt that submits, its Submit the last event of TRACE. -/
def Obligations.RegisterWriteRights : Prop :=
  ∀ (i : Instr) (s t : State), exec i s = .next t →
    let sends := (∃ c m, i = .send c m) ∨ (∃ c ch a b, i = .noteOn c ch a b) ∨
      (∃ c ch a b, i = .noteOff c ch a b) ∨ (∃ c ch a b, i = .controlChange c ch a b)
    let completesTx := ∃ st l, i = .completeTx st l
    let completesRx := ∃ st l d, i = .completeRx st l d
    (t.isOpen ≠ s.isOpen → i = .openDevice ∨ i = .closeDevice) ∧
    (t.txState = .idle → s.txState ≠ .idle → completesTx) ∧
    (t.rxState = .idle → s.rxState ≠ .idle → completesRx) ∧
    (s.txState = .idle → t.txState = .transferPending → (i = .armTx ∨ sends) ∧
      t.trace = s.trace ++
        [.submitTx t.txXferOff t.txXferLen (memReadFrom .tx t.txBuf t.txXferOff t.txXferLen)]) ∧
    (s.rxState = .idle → t.rxState = .transferPending → (i = .armRx ∨ i = .openDevice ∨ i = .decodeStep) ∧
      ∃ es, t.trace = s.trace ++ es ++ [.submitRx t.rxXferOff t.rxXferLen]) ∧
    (t.txXferOff ≠ s.txXferOff ∨ t.txXferLen ≠ s.txXferLen → t.txState = .transferPending ∧
      (s.txState = .idle ∨ completesTx)) ∧
    (t.rxXferOff ≠ s.rxXferOff ∨ t.rxXferLen ≠ s.rxXferLen → t.rxState = .transferPending ∧
      (s.rxState = .idle ∨ completesRx)) ∧
    (t.txBuf ≠ s.txBuf ∨ s.txCnt < t.txCnt → sends) ∧
    (t.txRd ≠ s.txRd ∨ t.txCnt < s.txCnt → completesTx ∨ i = .openDevice) ∧
    (t.rxBuf ≠ s.rxBuf ∨ s.rxCnt < t.rxCnt → completesRx) ∧
    (t.rxRd ≠ s.rxRd ∨ t.rxCnt < s.rxCnt → i = .decodeStep ∨ i = .openDevice) ∧
    (s.taskQ < t.taskQ → completesRx) ∧
    (t.taskQ < s.taskQ → i = .runTask ∨ i = .openDevice) ∧
    (t.decodeActive ≠ s.decodeActive → i = .runTask ∨ i = .decodeStep ∨ i = .openDevice) ∧
    (t.handlerMask ≠ s.handlerMask → ∃ c p, i = .register c p) ∧
    (t.fault ≠ s.fault → i = .openDevice ∨ completesTx ∨ completesRx)

/-- R36: while FAULT is not none, no operation has a step, nor has the instance whatever is requested. -/
def Obligations.FaultIsSticky : Prop :=
  ∀ (i : Instr) (s : State) (f : FaultName), s.fault = some f →
    exec i s = .fault (.quiescent f) ∧ step s = .fault (.quiescent f)

/-- R214: a fault is raised only by the operation of its row for the cause of its row, records the row's
information, and changes nothing else (that it returns no result is log entry 4). -/
def Obligations.FaultsHaveTheirCauses : Prop :=
  ∀ (i : Instr) (s t : State) (f : FaultName), exec i s = .next t → t.fault = some f →
    t = { s with fault := some f, reply := none } ∧
    match f with
    | .openWhileOpen => i = .openDevice ∧ s.isOpen = true
    | .openWhilePending tx rx => i = .openDevice ∧ s.isOpen = false ∧ (tx = true ∨ rx = true) ∧
        (tx = true ↔ s.txState = .transferPending) ∧ (rx = true ↔ s.rxState = .transferPending)
    | .spuriousCompletion .tx => ∃ status length, i = .completeTx status length ∧ s.txState = .idle
    | .spuriousCompletion .rx =>
        ∃ status length data, i = .completeRx status length data ∧ s.rxState = .idle
    | .lengthOverrun .tx length xferLen => i = .completeTx 0 length ∧ s.isOpen = true ∧
        s.txState = .transferPending ∧ xferLen = s.txXferLen ∧ s.txXferLen < length
    | .lengthOverrun .rx length xferLen => ∃ data, i = .completeRx 0 length data ∧ s.isOpen = true ∧
        s.rxState = .transferPending ∧ xferLen = s.rxXferLen ∧ s.rxXferLen < length

/-- R37, R33, R50, R43, R57: every step keeps the invariants. -/
def Obligations.StepKeepsInvariant : Prop :=
  ∀ s t : State, Inv s → step s = .next t → Inv t

/-- R66: every step keeps the bytes of a transmit transfer in flight equal to those of its Submit event. -/
def Obligations.StepKeepsInFlightBytes : Prop :=
  ∀ s t : State, Inv s → InFlightBytes s → step s = .next t → InFlightBytes t

/-- R123: every step keeps the pumps busy while there is work. -/
def Obligations.StepKeepsPumpsBusy : Prop :=
  ∀ s t : State, PumpsBusy s → step s = .next t → PumpsBusy t

/-- R251: no step strands a complete packet in the receive ring. -/
def Obligations.StepKeepsNoStrandedPacket : Prop :=
  ∀ s t : State, NoStrandedPacket s → step s = .next t → NoStrandedPacket t

/-- The invariants hold after construction, for every configuration. -/
def Obligations.ConstructionMeetsInvariants : Prop :=
  ∀ c : Config, Inv (State.construct c) ∧ InFlightBytes (State.construct c) ∧
    PumpsBusy (State.construct c) ∧ NoStrandedPacket (State.construct c)

/-- R42: the values after construction, for every configuration. -/
def Obligations.ConstructionValues : Prop :=
  ∀ c : Config, let s := State.construct c
    s.isOpen = false ∧ s.txState = .idle ∧ s.rxState = .idle ∧
    s.txXferOff = 0 ∧ s.txXferLen = 0 ∧ s.rxXferOff = 0 ∧ s.rxXferLen = 0 ∧
    s.txRd = 0 ∧ s.txCnt = 0 ∧ s.rxRd = 0 ∧ s.rxCnt = 0 ∧
    (∀ a, storedByte s.txBuf a = none ∧ storedByte s.rxBuf a = none) ∧
    s.handlerMask = 0x0000#16 ∧ s.taskQ = 0 ∧ s.decodeActive = false ∧ s.fault = none ∧ s.trace = []

/-- R12, R9 to R11, R13, R14: construction succeeds exactly for parameters within their bounds (that the
transfer caps are checked there too is log entry 14). -/
def Obligations.ConfigurationErrorHasNoInstance : Prop :=
  ∀ p : Params, ((State.construct? p).isSome = true ↔
    (1 ≤ p.nRx ∧ p.nRx ≤ 16) ∧ (1 ≤ p.nTx ∧ p.nTx ≤ 16) ∧
    (4 ≤ p.cTx ∧ p.cTx % 4 = 0 ∧ p.cTx ≤ 65535) ∧ (4 ≤ p.cRx ∧ p.cRx % 4 = 0 ∧ p.cRx ≤ 65535) ∧
    (1 ≤ p.xferMaxTx ∧ p.xferMaxTx ≤ 65535) ∧ (1 ≤ p.xferMaxRx ∧ p.xferMaxRx ≤ 65535) ∧
    (1 ≤ p.mps ∧ p.mps % 4 = 0)) ∧
  ∀ s, State.construct? p = some s → s.cfg.toParams = p

/-- R8: no step changes the configuration. -/
def Obligations.StepKeepsConfiguration : Prop :=
  ∀ s t : State, step s = .next t → t.cfg = s.cfg

/-- R38, R101, R227: TRACE only grows; a Submit is of the region then in flight, from an Idle pump or inside
that direction's completion, at most one a direction; a Dispatch comes only from the decode task. -/
def Obligations.TraceRecordsWhatHappens : Prop :=
  ∀ (i : Instr) (s t : State), exec i s = .next t → ∃ es, t.trace = s.trace ++ es ∧ es.length ≤ 2 ∧
    es.Nodup ∧
    ∀ e ∈ es, match e with
      | .submitTx off len bytes => t.txState = .transferPending ∧ t.txXferOff = off ∧ t.txXferLen = len ∧
          bytes = memReadFrom .tx t.txBuf off len ∧ t.isOpen = true ∧
          (s.txState = .idle ∨ ∃ st l, i = .completeTx st l)
      | .submitRx off len => t.rxState = .transferPending ∧ t.rxXferOff = off ∧ t.rxXferLen = len ∧
          t.isOpen = true ∧ (s.rxState = .idle ∨ ∃ st l d, i = .completeRx st l d)
      | .dispatch cable _ _ _ _ => (i = .decodeStep ∨ i.format = .eventPacket) ∧
          cable.toNat < s.cfg.nRx ∧ s.handlerMask.getLsbD cable.toNat = true

/-- R18, R72: a step decodes a request and runs exactly that operation. That the requests stand in a list in
State and a step takes the first of them is the model's choice (log entry 2). -/
def Obligations.StepRunsRequest : Prop :=
  ∀ (s : State) (r : Request) (rs : List Request) (i : Instr), s.fault = none → s.requests = r :: rs →
    decodeRequest r.bytes = .ok i → mayIssue r.issuer i = true →
    step s = exec i { s with requests := rs }

/-- R225, R247, I17: a request of an agent that may not issue its operation is refused, the codec operations
among the application's (R140 differs: log entry 10), while the agent of the operation's row may issue it (its
step is StepRunsRequest's); a step is refused, too, when no request waits (R241, log entry 17). That the next
request is the first of a list is log entry 2. -/
def Obligations.WrongAgentIsRefused : Prop :=
  ∀ (s : State) (rs : List Request) (a : Agent) (bs : List Byte) (i : Instr), s.fault = none →
    (s.requests = [] → step s = .refused .noRequest) ∧
    (s.requests = ⟨a, bs⟩ :: rs → decodeRequest bs = .ok i →
      ((i = .openDevice ∨ i = .closeDevice ∨ i = .armTx ∨ i = .armRx) → a ≠ .lifecycle →
        step s = .refused (.wrongAgent a)) ∧
      (((∃ st l, i = .completeTx st l) ∨ (∃ st l d, i = .completeRx st l d)) → a ≠ .usbStack →
        step s = .refused (.wrongAgent a)) ∧
      ((i = .runTask ∨ i = .decodeStep) → a ≠ .scheduler → step s = .refused (.wrongAgent a)) ∧
      (((∃ c m, i = .send c m) ∨ (∃ c ch x y, i = .noteOn c ch x y) ∨ (∃ c ch x y, i = .noteOff c ch x y) ∨
          (∃ c ch x y, i = .controlChange c ch x y) ∨ (∃ c p, i = .register c p) ∨
          (∃ c n x y z, i = .pack c n x y z) ∨ (∃ c m, i = .encode c m) ∨
          (∃ w x y z, i = .decodePacket w x y z)) →
        a ≠ .application → step s = .refused (.wrongAgent a))) ∧
    ((i = .openDevice ∨ i = .closeDevice ∨ i = .armTx ∨ i = .armRx) → mayIssue .lifecycle i = true) ∧
    (((∃ st l, i = .completeTx st l) ∨ (∃ st l d, i = .completeRx st l d)) →
      mayIssue .usbStack i = true) ∧
    ((i = .runTask ∨ i = .decodeStep) → mayIssue .scheduler i = true) ∧
    (((∃ c m, i = .send c m) ∨ (∃ c ch x y, i = .noteOn c ch x y) ∨ (∃ c ch x y, i = .noteOff c ch x y) ∨
        (∃ c ch x y, i = .controlChange c ch x y) ∨ (∃ c p, i = .register c p) ∨
        (∃ c n x y z, i = .pack c n x y z) ∨ (∃ c m, i = .encode c m) ∨
        (∃ w x y z, i = .decodePacket w x y z)) → mayIssue .application i = true)

/-- R51, R69: the transmit ring is a queue: an operation other than OPEN takes from its front exactly the
bytes a successful completion confirms and puts at its back exactly the packet a send queues; OPEN empties
it. -/
def Obligations.TransmitRingIsFifo : Prop :=
  ∀ (i : Instr) (s t : State), exec i s = .next t → t.fault = none →
    t.txContents =
      if i = .openDevice then []
      else s.txContents.drop (confirmedBytes s i) ++
        (if t.reply = some (.code .ok) then sentBytes s.cfg i else [])

/-- R51, R68, R181: the receive ring is a queue: an operation other than OPEN takes from its front exactly
the group a running task decodes and puts at its back exactly the bytes a successful completion delivers;
OPEN empties it. -/
def Obligations.ReceiveRingIsFifo : Prop :=
  ∀ (i : Instr) (s t : State), RxRingInv s → exec i s = .next t → t.fault = none →
    t.rxContents =
      if i = .openDevice then []
      else s.rxContents.drop (decodedBytes s i) ++ receivedBytes s i

/-- R43: no rule reads a ring byte outside the live regions, nor any while the device is closed: two states
that differ only there give the same step, up to bytes that still stand there. -/
def Obligations.DeadBytesAreUnreadable : Prop :=
  ∀ (i : Instr) (s s' t : State), Inv s → SameButDeadBytes s s' → exec i s = .next t →
    ∃ t', exec i s' = .next t' ∧ SameButDeadBytes t t'

/-- R250: in a state that meets the invariants, every well-formed operation completes; none waits and none
is refused. -/
def Obligations.EveryOperationHasAStep : Prop :=
  ∀ (i : Instr) (s : State), Inv s → s.fault = none → i.wellFormed = true → ∃ t, exec i s = .next t
end

