-- ==== Sys2Proof/Laws/Codec.lean ====
section
/-! SUPPORT. The laws of the codec's fields: the header byte in arithmetic, the u16 operand, the message
forms and the status byte of a helper. -/

namespace Sys2Proof

/-- R77 in arithmetic. -/
theorem headerCable_eq (b : Byte) : headerCable b = BitVec.ofNat 4 (b.toNat / 16) := by
  revert b; decide

/-- R77 in arithmetic. -/
theorem headerCin_eq (b : Byte) : headerCin b = BitVec.ofNat 4 (b.toNat % 16) := by
  revert b; decide

/-- R76 in arithmetic. -/
theorem headerByte_eq (cable cin : Nibble) :
    headerByte cable cin = BitVec.ofNat 8 (16 * cable.toNat + cin.toNat) := by
  revert cable cin; decide

@[simp] theorem headerCable_headerByte (cable cin : Nibble) : headerCable (headerByte cable cin) = cable := by
  revert cable cin; decide

@[simp] theorem headerCin_headerByte (cable cin : Nibble) : headerCin (headerByte cable cin) = cin := by
  revert cable cin; decide

@[simp] theorem headerByte_fields (b : Byte) : headerByte (headerCable b) (headerCin b) = b := by
  revert b; decide

theorem u16_lt (lo hi : Byte) : u16 lo hi < 65536 := by
  unfold u16; omega

@[simp] theorem u16Lo_u16 (lo hi : Byte) : u16Lo (u16 lo hi) = lo := by
  apply BitVec.eq_of_toNat_eq
  simp only [u16Lo, u16, BitVec.toNat_ofNat]
  omega

@[simp] theorem u16Hi_u16 (lo hi : Byte) : u16Hi (u16 lo hi) = hi := by
  apply BitVec.eq_of_toNat_eq
  simp only [u16Hi, u16, BitVec.toNat_ofNat]
  omega

theorem u16_bytes {n : Nat} (h : fitsU16 n = true) : u16 (u16Lo n) (u16Hi n) = n := by
  simp only [fitsU16, decide_eq_true_eq] at h
  simp only [u16, u16Lo, u16Hi, BitVec.toNat_ofNat]
  omega

theorem toNat_ofNat_of_fitsByte {n : Nat} (h : fitsByte n = true) : (BitVec.ofNat 8 n).toNat = n := by
  simp only [fitsByte, decide_eq_true_eq] at h
  simp only [BitVec.toNat_ofNat]
  omega

theorem fitsByte_toNat (b : Byte) : fitsByte b.toNat = true := by
  simp only [fitsByte, decide_eq_true_eq]
  exact b.isLt

/-- Every CIN and every payload is a packet: the packet rows cover their format (R97). -/
theorem packetInstr_cases (cin cable : Nibble) (b1 b2 b3 : Byte) :
    (packetInstr cin cable b1 b2 b3).format = .eventPacket ∧
      (packetInstr cin cable b1 b2 b3).wellFormed = true ∧
      encode (packetInstr cin cable b1 b2 b3) = packetBytes cable cin b1 b2 b3 := by
  have h : ∀ n : Fin 16, cin = BitVec.ofFin n →
      (packetInstr cin cable b1 b2 b3).format = .eventPacket ∧
        (packetInstr cin cable b1 b2 b3).wellFormed = true ∧
        encode (packetInstr cin cable b1 b2 b3) = packetBytes cable cin b1 b2 b3 := by
    intro n hn
    subst hn
    fin_cases n <;> exact ⟨rfl, rfl, rfl⟩
  exact h cin.toFin rfl

end Sys2Proof

namespace Sys2Proof.Machine

theorem messageOf_eq_none {msg : List Byte} : messageOf msg = none ↔ msg.length < 1 ∨ 3 < msg.length := by
  rcases msg with _ | ⟨a, _ | ⟨b, _ | ⟨c, _ | ⟨d, l⟩⟩⟩⟩ <;> simp [messageOf]

/-- A message's bytes, zero-padded, are its bytes in order (R78, R144). -/
theorem messageOf_bytes {msg : List Byte} {m : Message} (h : messageOf msg = some m) :
    messageStatus m = msg.getD 0 0x00#8 ∧ messageByte2 m = msg.getD 1 0x00#8 ∧
      messageByte3 m = msg.getD 2 0x00#8 ∧ messageLen m = msg.length := by
  rcases msg with _ | ⟨a, _ | ⟨b, _ | ⟨c, _ | ⟨d, l⟩⟩⟩⟩ <;> simp [messageOf] at h <;> subst h <;>
    simp [messageStatus, messageByte2, messageByte3, messageLen]

theorem cableNibble_toNat {cable : Nat} (h : cable < 16) : (cableNibble cable).toNat = cable := by
  simp only [cableNibble, BitVec.toNat_ofNat]; omega

theorem cinNibble_toNat {cin : Nat} (h : cin < 16) : (cinNibble cin).toNat = cin := by
  simp only [cinNibble, BitVec.toNat_ofNat]; omega

/-- `base | channel` adds the channel to the helper's base (R79, R200). -/
theorem statusByte_eq {base channel : Nat} (hb : base = 0x80 ∨ base = 0x90 ∨ base = 0xB0)
    (h : channel < 16) : statusByte (BitVec.ofNat 8 base) channel = BitVec.ofNat 8 (base + channel) := by
  have key : ∀ c : Fin 16, statusByte 0x80#8 c = BitVec.ofNat 8 (0x80 + c) ∧
      statusByte 0x90#8 c = BitVec.ofNat 8 (0x90 + c) ∧
      statusByte 0xB0#8 c = BitVec.ofNat 8 (0xB0 + c) := by decide
  rcases hb with rfl | rfl | rfl
  · exact (key ⟨channel, h⟩).1
  · exact (key ⟨channel, h⟩).2.1
  · exact (key ⟨channel, h⟩).2.2

/-- The CIN of a channel message is its category nibble (R141). -/
theorem cinOf_channel {m : Message} (h1 : 0x80#8 ≤ messageStatus m) (h2 : messageStatus m ≤ 0xEF#8) :
    cinOf m = (messageStatus m >>> 4).setWidth 4 := by
  simp only [cinOf]
  rw [if_pos ⟨h1, h2⟩]

/-- The CIN of a helper's message is its category (R141, R197 to R199). -/
theorem cinOf_helper {base channel : Nat} (hb : base = 0x80 ∨ base = 0x90 ∨ base = 0xB0)
    (h : channel < 16) (b1 b2 : Byte) :
    cinOf (.three (BitVec.ofNat 8 (base + channel)) b1 b2) = BitVec.ofNat 4 (base / 16) := by
  have key : ∀ c : Fin 16, ∀ k ∈ [0x80, 0x90, 0xB0],
      0x80#8 ≤ BitVec.ofNat 8 (k + c) ∧ BitVec.ofNat 8 (k + c) ≤ 0xEF#8 ∧
      (BitVec.ofNat 8 (k + c) >>> 4).setWidth 4 = BitVec.ofNat 4 (k / 16) := by decide
  obtain ⟨k1, k2, k3⟩ := key ⟨channel, h⟩ base (by simpa using hb)
  rw [cinOf_channel (by exact k1) (by exact k2)]
  exact k3

end Sys2Proof.Machine
end

