-- ==== Sys2Proof/Laws/Memory.lean ====
section
/-! SUPPORT. The laws of the ring storages: read after write, every write keeps the canonical form, a
storage in canonical form is determined by its reads. -/

namespace Sys2Proof.Machine

theorem storedByte_memWrite (m : Memory) (a : Nat) (v : Byte) (b : Nat) :
    storedByte (memWrite m a v) b = if b = a then some v else storedByte m b := by
  induction m with
  | nil => simp [memWrite, storedByte]
  | cons c m ih =>
    obtain ⟨i, w⟩ := c
    simp only [memWrite]
    by_cases hai : a < i
    · simp [hai, storedByte]
    · by_cases ha : a = i
      · subst ha
        by_cases hb : b = a <;> simp [storedByte, hb]
      · simp only [hai, ha, if_false, storedByte, ih]
        by_cases hbi : b = i
        · have : b ≠ a := fun h => ha (h ▸ hbi)
          simp [hbi, Ne.symm ha]
        · simp [hbi]

@[simp] theorem storedByte_memWrite_same (m : Memory) (a : Nat) (v : Byte) :
    storedByte (memWrite m a v) a = some v := by
  simp [storedByte_memWrite]

theorem storedByte_memWrite_other (m : Memory) (a b : Nat) (v : Byte) (h : b ≠ a) :
    storedByte (memWrite m a v) b = storedByte m b := by
  simp [storedByte_memWrite, h]

theorem Memory.wfFrom_mono {lo lo' : Nat} {m : Memory} (h : lo ≤ lo') (hm : Memory.wfFrom lo' m = true) :
    Memory.wfFrom lo m = true := by
  cases m with
  | nil => rfl
  | cons c m =>
    simp only [Memory.wfFrom, Bool.and_eq_true, decide_eq_true_eq] at hm ⊢
    exact ⟨Nat.le_trans h hm.1, hm.2⟩

theorem memWrite_wfFrom (m : Memory) (a : Nat) (v : Byte) :
    ∀ lo, lo ≤ a → Memory.wfFrom lo m = true → Memory.wfFrom lo (memWrite m a v) = true := by
  induction m with
  | nil => intro lo h _; simp [memWrite, Memory.wfFrom, h]
  | cons c m ih =>
    obtain ⟨i, w⟩ := c
    intro lo hlo hm
    simp only [Memory.wfFrom, Bool.and_eq_true, decide_eq_true_eq] at hm
    simp only [memWrite]
    by_cases hai : a < i
    · simp only [hai, if_true, Memory.wfFrom, Bool.and_eq_true, decide_eq_true_eq]
      exact ⟨hlo, hai, hm.2⟩
    · by_cases ha : a = i
      · subst ha
        simp only [hai, if_false, if_true, Memory.wfFrom, Bool.and_eq_true, decide_eq_true_eq]
        exact ⟨hlo, hm.2⟩
      · simp only [hai, ha, if_false, Memory.wfFrom, Bool.and_eq_true, decide_eq_true_eq]
        exact ⟨hm.1, ih (i + 1) (by omega) hm.2⟩

/-- Writing a byte keeps the canonical form. -/
theorem memWrite_wf {m : Memory} (a : Nat) (v : Byte) (h : m.wf = true) : (memWrite m a v).wf = true :=
  memWrite_wfFrom m a v 0 (Nat.zero_le a) h

theorem memWriteFrom_wf (vs : List Byte) :
    ∀ (m : Memory) (off : Nat), m.wf = true → (memWriteFrom m off vs).wf = true := by
  induction vs with
  | nil => intro m off h; exact h
  | cons v vs ih => intro m off h; exact ih _ _ (memWrite_wf off v h)

theorem ringWrite_wf (cap : Nat) (vs : List Byte) :
    ∀ (m : Memory) (start : Nat), m.wf = true → (ringWrite cap m start vs).wf = true := by
  induction vs with
  | nil => intro m start h; exact h
  | cons v vs ih => intro m start h; exact ih _ _ (memWrite_wf _ v h)

/-- What a run of writes at `off` leaves at every index. -/
theorem storedByte_memWriteFrom (vs : List Byte) :
    ∀ (m : Memory) (off a : Nat), storedByte (memWriteFrom m off vs) a =
      if off ≤ a ∧ a < off + vs.length then vs[a - off]? else storedByte m a := by
  induction vs with
  | nil => intro m off a; rw [memWriteFrom, if_neg (by simp only [List.length_nil]; omega)]
  | cons v vs ih =>
    intro m off a
    rw [memWriteFrom, ih, storedByte_memWrite]
    by_cases ha : a = off
    · subst ha
      rw [if_neg (by omega), if_pos rfl, if_pos (by simp only [List.length_cons]; omega)]
      simp
    · by_cases hr : off + 1 ≤ a ∧ a < off + 1 + vs.length
      · have h1 : off ≤ a ∧ a < off + (v :: vs).length := by simp; omega
        have h2 : a - off = (a - (off + 1)) + 1 := by omega
        rw [if_pos hr, if_pos h1, h2, List.getElem?_cons_succ]
      · have h1 : ¬ (off ≤ a ∧ a < off + (v :: vs).length) := by simp; omega
        rw [if_neg hr, if_neg h1, if_neg ha]

/-- An index that no write of a ring write reaches is left alone. -/
theorem storedByte_ringWrite_other (cap : Nat) (vs : List Byte) :
    ∀ (m : Memory) (start a : Nat), (∀ i, i < vs.length → a ≠ (start + i) % cap) →
      storedByte (ringWrite cap m start vs) a = storedByte m a := by
  induction vs with
  | nil => intro m start a _; rfl
  | cons v vs ih =>
    intro m start a h
    rw [ringWrite, ih, storedByte_memWrite_other _ _ _ _ (by simpa using h 0 (by simp))]
    intro i hi
    have := h (i + 1) (by simpa using hi)
    rwa [show start + (i + 1) = start + 1 + i by omega] at this

/-- An offset below the capacity, taken modulo it from a cursor below it. -/
theorem mod_of_lt_two {cap a : Nat} (h : a < 2 * cap) : a % cap = if a < cap then a else a - cap := by
  by_cases ha : a < cap
  · rw [if_pos ha, Nat.mod_eq_of_lt ha]
  · rw [if_neg ha, Nat.mod_eq_sub_mod (by omega), Nat.mod_eq_of_lt (by omega)]

/-- Two offsets below the capacity that reach one index are equal. -/
theorem mod_add_inj {cap start i j : Nat} (hi : i < cap) (hj : j < cap)
    (h : (start + i) % cap = (start + j) % cap) : i = j := by
  have h1 : (start % cap + i) % cap = (start % cap + j) % cap := by simpa [Nat.add_mod] using h
  have hs : start % cap < cap := Nat.mod_lt _ (by omega)
  generalize start % cap = r at h1 hs
  rw [mod_of_lt_two (by omega), mod_of_lt_two (by omega)] at h1
  split at h1 <;> split at h1 <;> omega

/-- A ring write of no more bytes than the capacity stores each of them. -/
theorem storedByte_ringWrite_at (cap : Nat) (vs : List Byte) :
    ∀ (m : Memory) (start i : Nat) (v : Byte), vs.length ≤ cap → vs[i]? = some v →
      storedByte (ringWrite cap m start vs) ((start + i) % cap) = some v := by
  induction vs with
  | nil => intro m start i v _ h; simp at h
  | cons w vs ih =>
    intro m start i v hcap h
    rw [ringWrite]
    cases i with
    | zero =>
      simp at h
      subst h
      rw [storedByte_ringWrite_other]
      · simp
      · intro j hj heq
        have := mod_add_inj (cap := cap) (start := start) (i := 0) (j := j + 1) (by simp at hcap; omega)
          (by simp at hcap; omega) (by rw [heq]; congr 1; omega)
        omega
    | succ i =>
      rw [show start + (i + 1) = start + 1 + i by omega]
      exact ih _ _ _ _ (by simp at hcap; omega) (by simpa using h)

theorem storedByte_none_of_wfFrom {lo a : Nat} {m : Memory} (h : Memory.wfFrom lo m = true) (ha : a < lo) :
    storedByte m a = none := by
  induction m generalizing lo with
  | nil => rfl
  | cons c m ih =>
    simp only [Memory.wfFrom, Bool.and_eq_true, decide_eq_true_eq] at h
    rw [storedByte, if_neg (by omega)]
    exact ih h.2 (by omega)

/-- Equal storages are equal data: a canonical form is determined by its reads. -/
theorem Memory.ext_of_wfFrom :
    ∀ (m m' : Memory) (lo : Nat), Memory.wfFrom lo m = true → Memory.wfFrom lo m' = true →
      (∀ a, storedByte m a = storedByte m' a) → m = m' := by
  intro m
  induction m with
  | nil =>
    intro m' lo _ _ h
    cases m' with
    | nil => rfl
    | cons c m' => have := h c.1; simp [storedByte] at this
  | cons c m ih =>
    intro m' lo hm hm' h
    obtain ⟨i, w⟩ := c
    simp only [Memory.wfFrom, Bool.and_eq_true, decide_eq_true_eq] at hm
    cases m' with
    | nil => have := h i; simp [storedByte] at this
    | cons c' m' =>
      obtain ⟨j, w'⟩ := c'
      simp only [Memory.wfFrom, Bool.and_eq_true, decide_eq_true_eq] at hm'
      have hij : i = j := by
        rcases Nat.lt_trichotomy i j with hlt | heq | hgt
        · have := h i
          rw [storedByte, if_pos rfl, storedByte, if_neg (by omega),
            storedByte_none_of_wfFrom hm'.2 (by omega)] at this
          cases this
        · exact heq
        · have := h j
          rw [storedByte, if_neg (by omega), storedByte_none_of_wfFrom hm.2 (by omega), storedByte,
            if_pos rfl] at this
          cases this
      subst hij
      have hw : w = w' := by simpa [storedByte] using h i
      subst hw
      rw [ih m' (i + 1) hm.2 hm'.2]
      intro a
      by_cases ha : a = i
      · subst ha
        rw [storedByte_none_of_wfFrom hm.2 (by omega), storedByte_none_of_wfFrom hm'.2 (by omega)]
      · simpa [storedByte, ha] using h a

theorem Memory.ext_of_wf {m m' : Memory} (hm : m.wf = true) (hm' : m'.wf = true)
    (h : ∀ a, storedByte m a = storedByte m' a) : m = m' :=
  Memory.ext_of_wfFrom m m' 0 hm hm' h

theorem memRead_eq_of_storedByte {d : Direction} {m m' : Memory} {a : Nat}
    (h : storedByte m' a = storedByte m a) : memRead d m' a = memRead d m a := by
  simp [memRead, h]

theorem memRead_of_storedByte {d : Direction} {m : Memory} {a : Nat} {v : Byte}
    (h : storedByte m a = some v) : memRead d m a = v := by
  simp [memRead, h]

@[simp] theorem memReadFrom_length (d : Direction) (m : Memory) (off n : Nat) :
    (memReadFrom d m off n).length = n := by
  simp [memReadFrom]

theorem memReadFrom_congr {d : Direction} {m m' : Memory} {off n : Nat}
    (h : ∀ i, i < n → storedByte m' (off + i) = storedByte m (off + i)) :
    memReadFrom d m' off n = memReadFrom d m off n := by
  unfold memReadFrom
  apply List.map_congr_left
  intro i hi
  exact memRead_eq_of_storedByte (h i (List.mem_range.mp hi))

end Sys2Proof.Machine
end

