-- ==== Sys2Proof/Laws/State.lean ====
section
/-! SUPPORT. One lemma per field per register write of Machine/Ops.lean, true by rfl, so that no proof
unfolds a record update. -/

namespace Sys2Proof.Machine

section emit
variable (s : State) (e : Event)
@[simp] theorem State.emit_cfg : (s.emit e).cfg = s.cfg := rfl
@[simp] theorem State.emit_isOpen : (s.emit e).isOpen = s.isOpen := rfl
@[simp] theorem State.emit_txState : (s.emit e).txState = s.txState := rfl
@[simp] theorem State.emit_rxState : (s.emit e).rxState = s.rxState := rfl
@[simp] theorem State.emit_txXferOff : (s.emit e).txXferOff = s.txXferOff := rfl
@[simp] theorem State.emit_txXferLen : (s.emit e).txXferLen = s.txXferLen := rfl
@[simp] theorem State.emit_rxXferOff : (s.emit e).rxXferOff = s.rxXferOff := rfl
@[simp] theorem State.emit_rxXferLen : (s.emit e).rxXferLen = s.rxXferLen := rfl
@[simp] theorem State.emit_txRd : (s.emit e).txRd = s.txRd := rfl
@[simp] theorem State.emit_txCnt : (s.emit e).txCnt = s.txCnt := rfl
@[simp] theorem State.emit_rxRd : (s.emit e).rxRd = s.rxRd := rfl
@[simp] theorem State.emit_rxCnt : (s.emit e).rxCnt = s.rxCnt := rfl
@[simp] theorem State.emit_txBuf : (s.emit e).txBuf = s.txBuf := rfl
@[simp] theorem State.emit_rxBuf : (s.emit e).rxBuf = s.rxBuf := rfl
@[simp] theorem State.emit_handlerMask : (s.emit e).handlerMask = s.handlerMask := rfl
@[simp] theorem State.emit_taskQ : (s.emit e).taskQ = s.taskQ := rfl
@[simp] theorem State.emit_decodeActive : (s.emit e).decodeActive = s.decodeActive := rfl
@[simp] theorem State.emit_fault : (s.emit e).fault = s.fault := rfl
@[simp] theorem State.emit_trace : (s.emit e).trace = s.trace ++ [e] := rfl
@[simp] theorem State.emit_requests : (s.emit e).requests = s.requests := rfl
@[simp] theorem State.emit_reply : (s.emit e).reply = s.reply := rfl
end emit

section setOpen
variable (s : State) (b : Bool)
@[simp] theorem State.setOpen_cfg : (s.setOpen b).cfg = s.cfg := rfl
@[simp] theorem State.setOpen_isOpen : (s.setOpen b).isOpen = b := rfl
@[simp] theorem State.setOpen_txState : (s.setOpen b).txState = s.txState := rfl
@[simp] theorem State.setOpen_rxState : (s.setOpen b).rxState = s.rxState := rfl
@[simp] theorem State.setOpen_txXferOff : (s.setOpen b).txXferOff = s.txXferOff := rfl
@[simp] theorem State.setOpen_txXferLen : (s.setOpen b).txXferLen = s.txXferLen := rfl
@[simp] theorem State.setOpen_rxXferOff : (s.setOpen b).rxXferOff = s.rxXferOff := rfl
@[simp] theorem State.setOpen_rxXferLen : (s.setOpen b).rxXferLen = s.rxXferLen := rfl
@[simp] theorem State.setOpen_txRd : (s.setOpen b).txRd = s.txRd := rfl
@[simp] theorem State.setOpen_txCnt : (s.setOpen b).txCnt = s.txCnt := rfl
@[simp] theorem State.setOpen_rxRd : (s.setOpen b).rxRd = s.rxRd := rfl
@[simp] theorem State.setOpen_rxCnt : (s.setOpen b).rxCnt = s.rxCnt := rfl
@[simp] theorem State.setOpen_txBuf : (s.setOpen b).txBuf = s.txBuf := rfl
@[simp] theorem State.setOpen_rxBuf : (s.setOpen b).rxBuf = s.rxBuf := rfl
@[simp] theorem State.setOpen_handlerMask : (s.setOpen b).handlerMask = s.handlerMask := rfl
@[simp] theorem State.setOpen_taskQ : (s.setOpen b).taskQ = s.taskQ := rfl
@[simp] theorem State.setOpen_decodeActive : (s.setOpen b).decodeActive = s.decodeActive := rfl
@[simp] theorem State.setOpen_fault : (s.setOpen b).fault = s.fault := rfl
@[simp] theorem State.setOpen_trace : (s.setOpen b).trace = s.trace := rfl
@[simp] theorem State.setOpen_requests : (s.setOpen b).requests = s.requests := rfl
@[simp] theorem State.setOpen_reply : (s.setOpen b).reply = s.reply := rfl
end setOpen

section restartRings
variable (s : State)
@[simp] theorem State.restartRings_cfg : (s.restartRings).cfg = s.cfg := rfl
@[simp] theorem State.restartRings_isOpen : (s.restartRings).isOpen = s.isOpen := rfl
@[simp] theorem State.restartRings_txState : (s.restartRings).txState = s.txState := rfl
@[simp] theorem State.restartRings_rxState : (s.restartRings).rxState = s.rxState := rfl
@[simp] theorem State.restartRings_txXferOff : (s.restartRings).txXferOff = s.txXferOff := rfl
@[simp] theorem State.restartRings_txXferLen : (s.restartRings).txXferLen = s.txXferLen := rfl
@[simp] theorem State.restartRings_rxXferOff : (s.restartRings).rxXferOff = s.rxXferOff := rfl
@[simp] theorem State.restartRings_rxXferLen : (s.restartRings).rxXferLen = s.rxXferLen := rfl
@[simp] theorem State.restartRings_txRd : (s.restartRings).txRd = 0 := rfl
@[simp] theorem State.restartRings_txCnt : (s.restartRings).txCnt = 0 := rfl
@[simp] theorem State.restartRings_rxRd : (s.restartRings).rxRd = 0 := rfl
@[simp] theorem State.restartRings_rxCnt : (s.restartRings).rxCnt = 0 := rfl
@[simp] theorem State.restartRings_txBuf : (s.restartRings).txBuf = s.txBuf := rfl
@[simp] theorem State.restartRings_rxBuf : (s.restartRings).rxBuf = s.rxBuf := rfl
@[simp] theorem State.restartRings_handlerMask : (s.restartRings).handlerMask = s.handlerMask := rfl
@[simp] theorem State.restartRings_taskQ : (s.restartRings).taskQ = 0 := rfl
@[simp] theorem State.restartRings_decodeActive : (s.restartRings).decodeActive = false := rfl
@[simp] theorem State.restartRings_fault : (s.restartRings).fault = s.fault := rfl
@[simp] theorem State.restartRings_trace : (s.restartRings).trace = s.trace := rfl
@[simp] theorem State.restartRings_requests : (s.restartRings).requests = s.requests := rfl
@[simp] theorem State.restartRings_reply : (s.restartRings).reply = s.reply := rfl
end restartRings

section submitTx
variable (s : State) (o l : Nat)
@[simp] theorem State.submitTx_cfg : (s.submitTx o l).cfg = s.cfg := rfl
@[simp] theorem State.submitTx_isOpen : (s.submitTx o l).isOpen = s.isOpen := rfl
@[simp] theorem State.submitTx_txState : (s.submitTx o l).txState = .transferPending := rfl
@[simp] theorem State.submitTx_rxState : (s.submitTx o l).rxState = s.rxState := rfl
@[simp] theorem State.submitTx_txXferOff : (s.submitTx o l).txXferOff = o := rfl
@[simp] theorem State.submitTx_txXferLen : (s.submitTx o l).txXferLen = l := rfl
@[simp] theorem State.submitTx_rxXferOff : (s.submitTx o l).rxXferOff = s.rxXferOff := rfl
@[simp] theorem State.submitTx_rxXferLen : (s.submitTx o l).rxXferLen = s.rxXferLen := rfl
@[simp] theorem State.submitTx_txRd : (s.submitTx o l).txRd = s.txRd := rfl
@[simp] theorem State.submitTx_txCnt : (s.submitTx o l).txCnt = s.txCnt := rfl
@[simp] theorem State.submitTx_rxRd : (s.submitTx o l).rxRd = s.rxRd := rfl
@[simp] theorem State.submitTx_rxCnt : (s.submitTx o l).rxCnt = s.rxCnt := rfl
@[simp] theorem State.submitTx_txBuf : (s.submitTx o l).txBuf = s.txBuf := rfl
@[simp] theorem State.submitTx_rxBuf : (s.submitTx o l).rxBuf = s.rxBuf := rfl
@[simp] theorem State.submitTx_handlerMask : (s.submitTx o l).handlerMask = s.handlerMask := rfl
@[simp] theorem State.submitTx_taskQ : (s.submitTx o l).taskQ = s.taskQ := rfl
@[simp] theorem State.submitTx_decodeActive : (s.submitTx o l).decodeActive = s.decodeActive := rfl
@[simp] theorem State.submitTx_fault : (s.submitTx o l).fault = s.fault := rfl
@[simp] theorem State.submitTx_trace : (s.submitTx o l).trace = s.trace := rfl
@[simp] theorem State.submitTx_requests : (s.submitTx o l).requests = s.requests := rfl
@[simp] theorem State.submitTx_reply : (s.submitTx o l).reply = s.reply := rfl
end submitTx

section submitRx
variable (s : State) (o l : Nat)
@[simp] theorem State.submitRx_cfg : (s.submitRx o l).cfg = s.cfg := rfl
@[simp] theorem State.submitRx_isOpen : (s.submitRx o l).isOpen = s.isOpen := rfl
@[simp] theorem State.submitRx_txState : (s.submitRx o l).txState = s.txState := rfl
@[simp] theorem State.submitRx_rxState : (s.submitRx o l).rxState = .transferPending := rfl
@[simp] theorem State.submitRx_txXferOff : (s.submitRx o l).txXferOff = s.txXferOff := rfl
@[simp] theorem State.submitRx_txXferLen : (s.submitRx o l).txXferLen = s.txXferLen := rfl
@[simp] theorem State.submitRx_rxXferOff : (s.submitRx o l).rxXferOff = o := rfl
@[simp] theorem State.submitRx_rxXferLen : (s.submitRx o l).rxXferLen = l := rfl
@[simp] theorem State.submitRx_txRd : (s.submitRx o l).txRd = s.txRd := rfl
@[simp] theorem State.submitRx_txCnt : (s.submitRx o l).txCnt = s.txCnt := rfl
@[simp] theorem State.submitRx_rxRd : (s.submitRx o l).rxRd = s.rxRd := rfl
@[simp] theorem State.submitRx_rxCnt : (s.submitRx o l).rxCnt = s.rxCnt := rfl
@[simp] theorem State.submitRx_txBuf : (s.submitRx o l).txBuf = s.txBuf := rfl
@[simp] theorem State.submitRx_rxBuf : (s.submitRx o l).rxBuf = s.rxBuf := rfl
@[simp] theorem State.submitRx_handlerMask : (s.submitRx o l).handlerMask = s.handlerMask := rfl
@[simp] theorem State.submitRx_taskQ : (s.submitRx o l).taskQ = s.taskQ := rfl
@[simp] theorem State.submitRx_decodeActive : (s.submitRx o l).decodeActive = s.decodeActive := rfl
@[simp] theorem State.submitRx_fault : (s.submitRx o l).fault = s.fault := rfl
@[simp] theorem State.submitRx_trace : (s.submitRx o l).trace = s.trace := rfl
@[simp] theorem State.submitRx_requests : (s.submitRx o l).requests = s.requests := rfl
@[simp] theorem State.submitRx_reply : (s.submitRx o l).reply = s.reply := rfl
end submitRx

section txToIdle
variable (s : State)
@[simp] theorem State.txToIdle_cfg : (s.txToIdle).cfg = s.cfg := rfl
@[simp] theorem State.txToIdle_isOpen : (s.txToIdle).isOpen = s.isOpen := rfl
@[simp] theorem State.txToIdle_txState : (s.txToIdle).txState = .idle := rfl
@[simp] theorem State.txToIdle_rxState : (s.txToIdle).rxState = s.rxState := rfl
@[simp] theorem State.txToIdle_txXferOff : (s.txToIdle).txXferOff = s.txXferOff := rfl
@[simp] theorem State.txToIdle_txXferLen : (s.txToIdle).txXferLen = s.txXferLen := rfl
@[simp] theorem State.txToIdle_rxXferOff : (s.txToIdle).rxXferOff = s.rxXferOff := rfl
@[simp] theorem State.txToIdle_rxXferLen : (s.txToIdle).rxXferLen = s.rxXferLen := rfl
@[simp] theorem State.txToIdle_txRd : (s.txToIdle).txRd = s.txRd := rfl
@[simp] theorem State.txToIdle_txCnt : (s.txToIdle).txCnt = s.txCnt := rfl
@[simp] theorem State.txToIdle_rxRd : (s.txToIdle).rxRd = s.rxRd := rfl
@[simp] theorem State.txToIdle_rxCnt : (s.txToIdle).rxCnt = s.rxCnt := rfl
@[simp] theorem State.txToIdle_txBuf : (s.txToIdle).txBuf = s.txBuf := rfl
@[simp] theorem State.txToIdle_rxBuf : (s.txToIdle).rxBuf = s.rxBuf := rfl
@[simp] theorem State.txToIdle_handlerMask : (s.txToIdle).handlerMask = s.handlerMask := rfl
@[simp] theorem State.txToIdle_taskQ : (s.txToIdle).taskQ = s.taskQ := rfl
@[simp] theorem State.txToIdle_decodeActive : (s.txToIdle).decodeActive = s.decodeActive := rfl
@[simp] theorem State.txToIdle_fault : (s.txToIdle).fault = s.fault := rfl
@[simp] theorem State.txToIdle_trace : (s.txToIdle).trace = s.trace := rfl
@[simp] theorem State.txToIdle_requests : (s.txToIdle).requests = s.requests := rfl
@[simp] theorem State.txToIdle_reply : (s.txToIdle).reply = s.reply := rfl
end txToIdle

section rxToIdle
variable (s : State)
@[simp] theorem State.rxToIdle_cfg : (s.rxToIdle).cfg = s.cfg := rfl
@[simp] theorem State.rxToIdle_isOpen : (s.rxToIdle).isOpen = s.isOpen := rfl
@[simp] theorem State.rxToIdle_txState : (s.rxToIdle).txState = s.txState := rfl
@[simp] theorem State.rxToIdle_rxState : (s.rxToIdle).rxState = .idle := rfl
@[simp] theorem State.rxToIdle_txXferOff : (s.rxToIdle).txXferOff = s.txXferOff := rfl
@[simp] theorem State.rxToIdle_txXferLen : (s.rxToIdle).txXferLen = s.txXferLen := rfl
@[simp] theorem State.rxToIdle_rxXferOff : (s.rxToIdle).rxXferOff = s.rxXferOff := rfl
@[simp] theorem State.rxToIdle_rxXferLen : (s.rxToIdle).rxXferLen = s.rxXferLen := rfl
@[simp] theorem State.rxToIdle_txRd : (s.rxToIdle).txRd = s.txRd := rfl
@[simp] theorem State.rxToIdle_txCnt : (s.rxToIdle).txCnt = s.txCnt := rfl
@[simp] theorem State.rxToIdle_rxRd : (s.rxToIdle).rxRd = s.rxRd := rfl
@[simp] theorem State.rxToIdle_rxCnt : (s.rxToIdle).rxCnt = s.rxCnt := rfl
@[simp] theorem State.rxToIdle_txBuf : (s.rxToIdle).txBuf = s.txBuf := rfl
@[simp] theorem State.rxToIdle_rxBuf : (s.rxToIdle).rxBuf = s.rxBuf := rfl
@[simp] theorem State.rxToIdle_handlerMask : (s.rxToIdle).handlerMask = s.handlerMask := rfl
@[simp] theorem State.rxToIdle_taskQ : (s.rxToIdle).taskQ = s.taskQ := rfl
@[simp] theorem State.rxToIdle_decodeActive : (s.rxToIdle).decodeActive = s.decodeActive := rfl
@[simp] theorem State.rxToIdle_fault : (s.rxToIdle).fault = s.fault := rfl
@[simp] theorem State.rxToIdle_trace : (s.rxToIdle).trace = s.trace := rfl
@[simp] theorem State.rxToIdle_requests : (s.rxToIdle).requests = s.requests := rfl
@[simp] theorem State.rxToIdle_reply : (s.rxToIdle).reply = s.reply := rfl
end rxToIdle

section advanceTx
variable (s : State) (n : Nat)
@[simp] theorem State.advanceTx_cfg : (s.advanceTx n).cfg = s.cfg := rfl
@[simp] theorem State.advanceTx_isOpen : (s.advanceTx n).isOpen = s.isOpen := rfl
@[simp] theorem State.advanceTx_txState : (s.advanceTx n).txState = s.txState := rfl
@[simp] theorem State.advanceTx_rxState : (s.advanceTx n).rxState = s.rxState := rfl
@[simp] theorem State.advanceTx_txXferOff : (s.advanceTx n).txXferOff = s.txXferOff := rfl
@[simp] theorem State.advanceTx_txXferLen : (s.advanceTx n).txXferLen = s.txXferLen := rfl
@[simp] theorem State.advanceTx_rxXferOff : (s.advanceTx n).rxXferOff = s.rxXferOff := rfl
@[simp] theorem State.advanceTx_rxXferLen : (s.advanceTx n).rxXferLen = s.rxXferLen := rfl
@[simp] theorem State.advanceTx_txRd : (s.advanceTx n).txRd = (s.txRd + n) % s.cfg.cTx := rfl
@[simp] theorem State.advanceTx_txCnt : (s.advanceTx n).txCnt = s.txCnt - n := rfl
@[simp] theorem State.advanceTx_rxRd : (s.advanceTx n).rxRd = s.rxRd := rfl
@[simp] theorem State.advanceTx_rxCnt : (s.advanceTx n).rxCnt = s.rxCnt := rfl
@[simp] theorem State.advanceTx_txBuf : (s.advanceTx n).txBuf = s.txBuf := rfl
@[simp] theorem State.advanceTx_rxBuf : (s.advanceTx n).rxBuf = s.rxBuf := rfl
@[simp] theorem State.advanceTx_handlerMask : (s.advanceTx n).handlerMask = s.handlerMask := rfl
@[simp] theorem State.advanceTx_taskQ : (s.advanceTx n).taskQ = s.taskQ := rfl
@[simp] theorem State.advanceTx_decodeActive : (s.advanceTx n).decodeActive = s.decodeActive := rfl
@[simp] theorem State.advanceTx_fault : (s.advanceTx n).fault = s.fault := rfl
@[simp] theorem State.advanceTx_trace : (s.advanceTx n).trace = s.trace := rfl
@[simp] theorem State.advanceTx_requests : (s.advanceTx n).requests = s.requests := rfl
@[simp] theorem State.advanceTx_reply : (s.advanceTx n).reply = s.reply := rfl
end advanceTx

section receive
variable (s : State) (n : Nat) (d : List Byte)
@[simp] theorem State.receive_cfg : (s.receive n d).cfg = s.cfg := rfl
@[simp] theorem State.receive_isOpen : (s.receive n d).isOpen = s.isOpen := rfl
@[simp] theorem State.receive_txState : (s.receive n d).txState = s.txState := rfl
@[simp] theorem State.receive_rxState : (s.receive n d).rxState = s.rxState := rfl
@[simp] theorem State.receive_txXferOff : (s.receive n d).txXferOff = s.txXferOff := rfl
@[simp] theorem State.receive_txXferLen : (s.receive n d).txXferLen = s.txXferLen := rfl
@[simp] theorem State.receive_rxXferOff : (s.receive n d).rxXferOff = s.rxXferOff := rfl
@[simp] theorem State.receive_rxXferLen : (s.receive n d).rxXferLen = s.rxXferLen := rfl
@[simp] theorem State.receive_txRd : (s.receive n d).txRd = s.txRd := rfl
@[simp] theorem State.receive_txCnt : (s.receive n d).txCnt = s.txCnt := rfl
@[simp] theorem State.receive_rxRd : (s.receive n d).rxRd = s.rxRd := rfl
@[simp] theorem State.receive_rxCnt : (s.receive n d).rxCnt = s.rxCnt + n := rfl
@[simp] theorem State.receive_txBuf : (s.receive n d).txBuf = s.txBuf := rfl
@[simp] theorem State.receive_rxBuf : (s.receive n d).rxBuf = memWriteFrom s.rxBuf s.rxXferOff d := rfl
@[simp] theorem State.receive_handlerMask : (s.receive n d).handlerMask = s.handlerMask := rfl
@[simp] theorem State.receive_taskQ : (s.receive n d).taskQ = s.taskQ + 1 := rfl
@[simp] theorem State.receive_decodeActive : (s.receive n d).decodeActive = s.decodeActive := rfl
@[simp] theorem State.receive_fault : (s.receive n d).fault = s.fault := rfl
@[simp] theorem State.receive_trace : (s.receive n d).trace = s.trace := rfl
@[simp] theorem State.receive_requests : (s.receive n d).requests = s.requests := rfl
@[simp] theorem State.receive_reply : (s.receive n d).reply = s.reply := rfl
end receive

section startTask
variable (s : State)
@[simp] theorem State.startTask_cfg : (s.startTask).cfg = s.cfg := rfl
@[simp] theorem State.startTask_isOpen : (s.startTask).isOpen = s.isOpen := rfl
@[simp] theorem State.startTask_txState : (s.startTask).txState = s.txState := rfl
@[simp] theorem State.startTask_rxState : (s.startTask).rxState = s.rxState := rfl
@[simp] theorem State.startTask_txXferOff : (s.startTask).txXferOff = s.txXferOff := rfl
@[simp] theorem State.startTask_txXferLen : (s.startTask).txXferLen = s.txXferLen := rfl
@[simp] theorem State.startTask_rxXferOff : (s.startTask).rxXferOff = s.rxXferOff := rfl
@[simp] theorem State.startTask_rxXferLen : (s.startTask).rxXferLen = s.rxXferLen := rfl
@[simp] theorem State.startTask_txRd : (s.startTask).txRd = s.txRd := rfl
@[simp] theorem State.startTask_txCnt : (s.startTask).txCnt = s.txCnt := rfl
@[simp] theorem State.startTask_rxRd : (s.startTask).rxRd = s.rxRd := rfl
@[simp] theorem State.startTask_rxCnt : (s.startTask).rxCnt = s.rxCnt := rfl
@[simp] theorem State.startTask_txBuf : (s.startTask).txBuf = s.txBuf := rfl
@[simp] theorem State.startTask_rxBuf : (s.startTask).rxBuf = s.rxBuf := rfl
@[simp] theorem State.startTask_handlerMask : (s.startTask).handlerMask = s.handlerMask := rfl
@[simp] theorem State.startTask_taskQ : (s.startTask).taskQ = s.taskQ - 1 := rfl
@[simp] theorem State.startTask_decodeActive : (s.startTask).decodeActive = true := rfl
@[simp] theorem State.startTask_fault : (s.startTask).fault = s.fault := rfl
@[simp] theorem State.startTask_trace : (s.startTask).trace = s.trace := rfl
@[simp] theorem State.startTask_requests : (s.startTask).requests = s.requests := rfl
@[simp] theorem State.startTask_reply : (s.startTask).reply = s.reply := rfl
end startTask

section endTask
variable (s : State)
@[simp] theorem State.endTask_cfg : (s.endTask).cfg = s.cfg := rfl
@[simp] theorem State.endTask_isOpen : (s.endTask).isOpen = s.isOpen := rfl
@[simp] theorem State.endTask_txState : (s.endTask).txState = s.txState := rfl
@[simp] theorem State.endTask_rxState : (s.endTask).rxState = s.rxState := rfl
@[simp] theorem State.endTask_txXferOff : (s.endTask).txXferOff = s.txXferOff := rfl
@[simp] theorem State.endTask_txXferLen : (s.endTask).txXferLen = s.txXferLen := rfl
@[simp] theorem State.endTask_rxXferOff : (s.endTask).rxXferOff = s.rxXferOff := rfl
@[simp] theorem State.endTask_rxXferLen : (s.endTask).rxXferLen = s.rxXferLen := rfl
@[simp] theorem State.endTask_txRd : (s.endTask).txRd = s.txRd := rfl
@[simp] theorem State.endTask_txCnt : (s.endTask).txCnt = s.txCnt := rfl
@[simp] theorem State.endTask_rxRd : (s.endTask).rxRd = s.rxRd := rfl
@[simp] theorem State.endTask_rxCnt : (s.endTask).rxCnt = s.rxCnt := rfl
@[simp] theorem State.endTask_txBuf : (s.endTask).txBuf = s.txBuf := rfl
@[simp] theorem State.endTask_rxBuf : (s.endTask).rxBuf = s.rxBuf := rfl
@[simp] theorem State.endTask_handlerMask : (s.endTask).handlerMask = s.handlerMask := rfl
@[simp] theorem State.endTask_taskQ : (s.endTask).taskQ = s.taskQ := rfl
@[simp] theorem State.endTask_decodeActive : (s.endTask).decodeActive = false := rfl
@[simp] theorem State.endTask_fault : (s.endTask).fault = s.fault := rfl
@[simp] theorem State.endTask_trace : (s.endTask).trace = s.trace := rfl
@[simp] theorem State.endTask_requests : (s.endTask).requests = s.requests := rfl
@[simp] theorem State.endTask_reply : (s.endTask).reply = s.reply := rfl
end endTask

section consumeGroup
variable (s : State)
@[simp] theorem State.consumeGroup_cfg : (s.consumeGroup).cfg = s.cfg := rfl
@[simp] theorem State.consumeGroup_isOpen : (s.consumeGroup).isOpen = s.isOpen := rfl
@[simp] theorem State.consumeGroup_txState : (s.consumeGroup).txState = s.txState := rfl
@[simp] theorem State.consumeGroup_rxState : (s.consumeGroup).rxState = s.rxState := rfl
@[simp] theorem State.consumeGroup_txXferOff : (s.consumeGroup).txXferOff = s.txXferOff := rfl
@[simp] theorem State.consumeGroup_txXferLen : (s.consumeGroup).txXferLen = s.txXferLen := rfl
@[simp] theorem State.consumeGroup_rxXferOff : (s.consumeGroup).rxXferOff = s.rxXferOff := rfl
@[simp] theorem State.consumeGroup_rxXferLen : (s.consumeGroup).rxXferLen = s.rxXferLen := rfl
@[simp] theorem State.consumeGroup_txRd : (s.consumeGroup).txRd = s.txRd := rfl
@[simp] theorem State.consumeGroup_txCnt : (s.consumeGroup).txCnt = s.txCnt := rfl
@[simp] theorem State.consumeGroup_rxRd : (s.consumeGroup).rxRd = (s.rxRd + 4) % s.cfg.cRx := rfl
@[simp] theorem State.consumeGroup_rxCnt : (s.consumeGroup).rxCnt = s.rxCnt - 4 := rfl
@[simp] theorem State.consumeGroup_txBuf : (s.consumeGroup).txBuf = s.txBuf := rfl
@[simp] theorem State.consumeGroup_rxBuf : (s.consumeGroup).rxBuf = s.rxBuf := rfl
@[simp] theorem State.consumeGroup_handlerMask : (s.consumeGroup).handlerMask = s.handlerMask := rfl
@[simp] theorem State.consumeGroup_taskQ : (s.consumeGroup).taskQ = s.taskQ := rfl
@[simp] theorem State.consumeGroup_decodeActive : (s.consumeGroup).decodeActive = s.decodeActive := rfl
@[simp] theorem State.consumeGroup_fault : (s.consumeGroup).fault = s.fault := rfl
@[simp] theorem State.consumeGroup_trace : (s.consumeGroup).trace = s.trace := rfl
@[simp] theorem State.consumeGroup_requests : (s.consumeGroup).requests = s.requests := rfl
@[simp] theorem State.consumeGroup_reply : (s.consumeGroup).reply = s.reply := rfl
end consumeGroup

section queuePacket
variable (s : State) (p : Packet)
@[simp] theorem State.queuePacket_cfg : (s.queuePacket p).cfg = s.cfg := rfl
@[simp] theorem State.queuePacket_isOpen : (s.queuePacket p).isOpen = s.isOpen := rfl
@[simp] theorem State.queuePacket_txState : (s.queuePacket p).txState = s.txState := rfl
@[simp] theorem State.queuePacket_rxState : (s.queuePacket p).rxState = s.rxState := rfl
@[simp] theorem State.queuePacket_txXferOff : (s.queuePacket p).txXferOff = s.txXferOff := rfl
@[simp] theorem State.queuePacket_txXferLen : (s.queuePacket p).txXferLen = s.txXferLen := rfl
@[simp] theorem State.queuePacket_rxXferOff : (s.queuePacket p).rxXferOff = s.rxXferOff := rfl
@[simp] theorem State.queuePacket_rxXferLen : (s.queuePacket p).rxXferLen = s.rxXferLen := rfl
@[simp] theorem State.queuePacket_txRd : (s.queuePacket p).txRd = s.txRd := rfl
@[simp] theorem State.queuePacket_txCnt : (s.queuePacket p).txCnt = s.txCnt + 4 := rfl
@[simp] theorem State.queuePacket_rxRd : (s.queuePacket p).rxRd = s.rxRd := rfl
@[simp] theorem State.queuePacket_rxCnt : (s.queuePacket p).rxCnt = s.rxCnt := rfl
@[simp] theorem State.queuePacket_txBuf : (s.queuePacket p).txBuf = ringWrite s.cfg.cTx s.txBuf (s.txRd + s.txCnt) (packetList p) := rfl
@[simp] theorem State.queuePacket_rxBuf : (s.queuePacket p).rxBuf = s.rxBuf := rfl
@[simp] theorem State.queuePacket_handlerMask : (s.queuePacket p).handlerMask = s.handlerMask := rfl
@[simp] theorem State.queuePacket_taskQ : (s.queuePacket p).taskQ = s.taskQ := rfl
@[simp] theorem State.queuePacket_decodeActive : (s.queuePacket p).decodeActive = s.decodeActive := rfl
@[simp] theorem State.queuePacket_fault : (s.queuePacket p).fault = s.fault := rfl
@[simp] theorem State.queuePacket_trace : (s.queuePacket p).trace = s.trace := rfl
@[simp] theorem State.queuePacket_requests : (s.queuePacket p).requests = s.requests := rfl
@[simp] theorem State.queuePacket_reply : (s.queuePacket p).reply = s.reply := rfl
end queuePacket

section setHandler
variable (s : State) (c : Nat) (b : Bool)
@[simp] theorem State.setHandler_cfg : (s.setHandler c b).cfg = s.cfg := rfl
@[simp] theorem State.setHandler_isOpen : (s.setHandler c b).isOpen = s.isOpen := rfl
@[simp] theorem State.setHandler_txState : (s.setHandler c b).txState = s.txState := rfl
@[simp] theorem State.setHandler_rxState : (s.setHandler c b).rxState = s.rxState := rfl
@[simp] theorem State.setHandler_txXferOff : (s.setHandler c b).txXferOff = s.txXferOff := rfl
@[simp] theorem State.setHandler_txXferLen : (s.setHandler c b).txXferLen = s.txXferLen := rfl
@[simp] theorem State.setHandler_rxXferOff : (s.setHandler c b).rxXferOff = s.rxXferOff := rfl
@[simp] theorem State.setHandler_rxXferLen : (s.setHandler c b).rxXferLen = s.rxXferLen := rfl
@[simp] theorem State.setHandler_txRd : (s.setHandler c b).txRd = s.txRd := rfl
@[simp] theorem State.setHandler_txCnt : (s.setHandler c b).txCnt = s.txCnt := rfl
@[simp] theorem State.setHandler_rxRd : (s.setHandler c b).rxRd = s.rxRd := rfl
@[simp] theorem State.setHandler_rxCnt : (s.setHandler c b).rxCnt = s.rxCnt := rfl
@[simp] theorem State.setHandler_txBuf : (s.setHandler c b).txBuf = s.txBuf := rfl
@[simp] theorem State.setHandler_rxBuf : (s.setHandler c b).rxBuf = s.rxBuf := rfl
@[simp] theorem State.setHandler_handlerMask : (s.setHandler c b).handlerMask = maskWith s.handlerMask c b := rfl
@[simp] theorem State.setHandler_taskQ : (s.setHandler c b).taskQ = s.taskQ := rfl
@[simp] theorem State.setHandler_decodeActive : (s.setHandler c b).decodeActive = s.decodeActive := rfl
@[simp] theorem State.setHandler_fault : (s.setHandler c b).fault = s.fault := rfl
@[simp] theorem State.setHandler_trace : (s.setHandler c b).trace = s.trace := rfl
@[simp] theorem State.setHandler_requests : (s.setHandler c b).requests = s.requests := rfl
@[simp] theorem State.setHandler_reply : (s.setHandler c b).reply = s.reply := rfl
end setHandler

section withReply
variable (s : State) (r : Option Reply)
@[simp] theorem State.withReply_cfg : (s.withReply r).cfg = s.cfg := rfl
@[simp] theorem State.withReply_isOpen : (s.withReply r).isOpen = s.isOpen := rfl
@[simp] theorem State.withReply_txState : (s.withReply r).txState = s.txState := rfl
@[simp] theorem State.withReply_rxState : (s.withReply r).rxState = s.rxState := rfl
@[simp] theorem State.withReply_txXferOff : (s.withReply r).txXferOff = s.txXferOff := rfl
@[simp] theorem State.withReply_txXferLen : (s.withReply r).txXferLen = s.txXferLen := rfl
@[simp] theorem State.withReply_rxXferOff : (s.withReply r).rxXferOff = s.rxXferOff := rfl
@[simp] theorem State.withReply_rxXferLen : (s.withReply r).rxXferLen = s.rxXferLen := rfl
@[simp] theorem State.withReply_txRd : (s.withReply r).txRd = s.txRd := rfl
@[simp] theorem State.withReply_txCnt : (s.withReply r).txCnt = s.txCnt := rfl
@[simp] theorem State.withReply_rxRd : (s.withReply r).rxRd = s.rxRd := rfl
@[simp] theorem State.withReply_rxCnt : (s.withReply r).rxCnt = s.rxCnt := rfl
@[simp] theorem State.withReply_txBuf : (s.withReply r).txBuf = s.txBuf := rfl
@[simp] theorem State.withReply_rxBuf : (s.withReply r).rxBuf = s.rxBuf := rfl
@[simp] theorem State.withReply_handlerMask : (s.withReply r).handlerMask = s.handlerMask := rfl
@[simp] theorem State.withReply_taskQ : (s.withReply r).taskQ = s.taskQ := rfl
@[simp] theorem State.withReply_decodeActive : (s.withReply r).decodeActive = s.decodeActive := rfl
@[simp] theorem State.withReply_fault : (s.withReply r).fault = s.fault := rfl
@[simp] theorem State.withReply_trace : (s.withReply r).trace = s.trace := rfl
@[simp] theorem State.withReply_requests : (s.withReply r).requests = s.requests := rfl
@[simp] theorem State.withReply_reply : (s.withReply r).reply = r := rfl
end withReply

section withFault
variable (s : State) (f : FaultName)
@[simp] theorem State.withFault_cfg : (s.withFault f).cfg = s.cfg := rfl
@[simp] theorem State.withFault_isOpen : (s.withFault f).isOpen = s.isOpen := rfl
@[simp] theorem State.withFault_txState : (s.withFault f).txState = s.txState := rfl
@[simp] theorem State.withFault_rxState : (s.withFault f).rxState = s.rxState := rfl
@[simp] theorem State.withFault_txXferOff : (s.withFault f).txXferOff = s.txXferOff := rfl
@[simp] theorem State.withFault_txXferLen : (s.withFault f).txXferLen = s.txXferLen := rfl
@[simp] theorem State.withFault_rxXferOff : (s.withFault f).rxXferOff = s.rxXferOff := rfl
@[simp] theorem State.withFault_rxXferLen : (s.withFault f).rxXferLen = s.rxXferLen := rfl
@[simp] theorem State.withFault_txRd : (s.withFault f).txRd = s.txRd := rfl
@[simp] theorem State.withFault_txCnt : (s.withFault f).txCnt = s.txCnt := rfl
@[simp] theorem State.withFault_rxRd : (s.withFault f).rxRd = s.rxRd := rfl
@[simp] theorem State.withFault_rxCnt : (s.withFault f).rxCnt = s.rxCnt := rfl
@[simp] theorem State.withFault_txBuf : (s.withFault f).txBuf = s.txBuf := rfl
@[simp] theorem State.withFault_rxBuf : (s.withFault f).rxBuf = s.rxBuf := rfl
@[simp] theorem State.withFault_handlerMask : (s.withFault f).handlerMask = s.handlerMask := rfl
@[simp] theorem State.withFault_taskQ : (s.withFault f).taskQ = s.taskQ := rfl
@[simp] theorem State.withFault_decodeActive : (s.withFault f).decodeActive = s.decodeActive := rfl
@[simp] theorem State.withFault_fault : (s.withFault f).fault = some f := rfl
@[simp] theorem State.withFault_trace : (s.withFault f).trace = s.trace := rfl
@[simp] theorem State.withFault_requests : (s.withFault f).requests = s.requests := rfl
@[simp] theorem State.withFault_reply : (s.withFault f).reply = s.reply := rfl
end withFault

section withRequests
variable (s : State) (rs : List Request)
@[simp] theorem State.withRequests_cfg : (s.withRequests rs).cfg = s.cfg := rfl
@[simp] theorem State.withRequests_isOpen : (s.withRequests rs).isOpen = s.isOpen := rfl
@[simp] theorem State.withRequests_txState : (s.withRequests rs).txState = s.txState := rfl
@[simp] theorem State.withRequests_rxState : (s.withRequests rs).rxState = s.rxState := rfl
@[simp] theorem State.withRequests_txXferOff : (s.withRequests rs).txXferOff = s.txXferOff := rfl
@[simp] theorem State.withRequests_txXferLen : (s.withRequests rs).txXferLen = s.txXferLen := rfl
@[simp] theorem State.withRequests_rxXferOff : (s.withRequests rs).rxXferOff = s.rxXferOff := rfl
@[simp] theorem State.withRequests_rxXferLen : (s.withRequests rs).rxXferLen = s.rxXferLen := rfl
@[simp] theorem State.withRequests_txRd : (s.withRequests rs).txRd = s.txRd := rfl
@[simp] theorem State.withRequests_txCnt : (s.withRequests rs).txCnt = s.txCnt := rfl
@[simp] theorem State.withRequests_rxRd : (s.withRequests rs).rxRd = s.rxRd := rfl
@[simp] theorem State.withRequests_rxCnt : (s.withRequests rs).rxCnt = s.rxCnt := rfl
@[simp] theorem State.withRequests_txBuf : (s.withRequests rs).txBuf = s.txBuf := rfl
@[simp] theorem State.withRequests_rxBuf : (s.withRequests rs).rxBuf = s.rxBuf := rfl
@[simp] theorem State.withRequests_handlerMask : (s.withRequests rs).handlerMask = s.handlerMask := rfl
@[simp] theorem State.withRequests_taskQ : (s.withRequests rs).taskQ = s.taskQ := rfl
@[simp] theorem State.withRequests_decodeActive : (s.withRequests rs).decodeActive = s.decodeActive := rfl
@[simp] theorem State.withRequests_fault : (s.withRequests rs).fault = s.fault := rfl
@[simp] theorem State.withRequests_trace : (s.withRequests rs).trace = s.trace := rfl
@[simp] theorem State.withRequests_requests : (s.withRequests rs).requests = rs := rfl
@[simp] theorem State.withRequests_reply : (s.withRequests rs).reply = s.reply := rfl
end withRequests

end Sys2Proof.Machine
end

