-- ==== Sys2Proof/Laws/Ops.lean ====
section
/-! SUPPORT. One lemma a shared operation that says once everything it can do, which the proofs about the
meanings cite instead of unfolding it. -/

namespace Sys2Proof.Machine

variable {s t : State}

/-! ### How an operation ends -/

@[simp] theorem unlessFaulted_of_none {b : StepOutcome} (h : s.fault = none) : unlessFaulted s b = b := by
  simp [unlessFaulted, h]

theorem unlessFaulted_of_some {b : StepOutcome} {f : FaultName} (h : s.fault = some f) :
    unlessFaulted s b = .fault (.quiescent f) := by
  simp [unlessFaulted, h]

/-- An operation that gives a next state ran unfaulted. -/
theorem unlessFaulted_next {b : StepOutcome} :
    unlessFaulted s b = .next t ↔ s.fault = none ∧ b = .next t := by
  unfold unlessFaulted
  cases h : s.fault <;> simp

@[simp] theorem finish_next {r : Reply} : finish s r = .next t ↔ s.withReply (some r) = t := by
  simp [finish]

@[simp] theorem finishCode_next {o : State × Result} :
    finishCode o = .next t ↔ o.1.withReply (some (.code o.2)) = t := by
  simp [finishCode]

@[simp] theorem reject_next {r : Result} : reject s r = .next t ↔ s.withReply (some (.code r)) = t := by
  simp [reject]

@[simp] theorem raiseFault_next {f : FaultName} :
    raiseFault s f = .next t ↔ (s.withFault f).withReply none = t := by
  simp [raiseFault]

/-! ### Arm attempts -/

/-- Everything `ARM_TX()` can do (R108). -/
theorem armTx_cases (s : State) :
    (s.isOpen = false ∧ armTx s = (s, .noopClosed)) ∨
    (s.isOpen = true ∧ s.txState = .transferPending ∧ armTx s = (s, .noopPending)) ∨
    (s.isOpen = true ∧ s.txState = .idle ∧ s.txCnt = 0 ∧ armTx s = (s, .noopEmpty)) ∨
    (s.isOpen = true ∧ s.txState = .idle ∧ s.txCnt ≠ 0 ∧ armTx s = (submitTxRegion s, .armed)) := by
  unfold armTx
  cases s.isOpen <;> cases s.txState <;> by_cases h : s.txCnt = 0 <;> simp [h]

/-- Everything `ARM_RX()` can do (R112). -/
theorem armRx_cases (s : State) :
    (s.isOpen = false ∧ armRx s = (s, .noopClosed)) ∨
    (s.isOpen = true ∧ s.rxState = .transferPending ∧ armRx s = (s, .noopPending)) ∨
    (s.isOpen = true ∧ s.rxState = .idle ∧ s.rxFree = 0 ∧ armRx s = (s, .noopFull)) ∨
    (s.isOpen = true ∧ s.rxState = .idle ∧ s.rxFree ≠ 0 ∧ armRx s = (submitRxRegion s, .armed)) := by
  unfold armRx
  cases s.isOpen <;> cases s.rxState <;> by_cases h : s.rxFree = 0 <;> simp [h]

theorem armTx_closed (h : s.isOpen = false) : armTx s = (s, .noopClosed) := by simp [armTx, h]

theorem armTx_pending (ho : s.isOpen = true) (h : s.txState = .transferPending) :
    armTx s = (s, .noopPending) := by
  simp [armTx, ho, h]

theorem armTx_empty (ho : s.isOpen = true) (hi : s.txState = .idle) (h : s.txCnt = 0) :
    armTx s = (s, .noopEmpty) := by
  simp [armTx, ho, hi, h]

theorem armTx_submits (ho : s.isOpen = true) (hi : s.txState = .idle) (h : s.txCnt ≠ 0) :
    armTx s = (submitTxRegion s, .armed) := by
  simp [armTx, ho, hi, h]

theorem armRx_closed (h : s.isOpen = false) : armRx s = (s, .noopClosed) := by simp [armRx, h]

theorem armRx_pending (ho : s.isOpen = true) (h : s.rxState = .transferPending) :
    armRx s = (s, .noopPending) := by
  simp [armRx, ho, h]

theorem armRx_full (ho : s.isOpen = true) (hi : s.rxState = .idle) (h : s.rxFree = 0) :
    armRx s = (s, .noopFull) := by
  simp [armRx, ho, hi, h]

theorem armRx_submits (ho : s.isOpen = true) (hi : s.rxState = .idle) (h : s.rxFree ≠ 0) :
    armRx s = (submitRxRegion s, .armed) := by
  simp [armRx, ho, hi, h]

/-- The state after a transmit submit (R108). -/
theorem submitTxRegion_eq (s : State) :
    submitTxRegion s =
      (s.submitTx s.txRd (min s.txCnt (min (s.cfg.cTx - s.txRd) s.cfg.xferMaxTx))).emit
        (.submitTx s.txRd (min s.txCnt (min (s.cfg.cTx - s.txRd) s.cfg.xferMaxTx))
          (memReadFrom .tx s.txBuf s.txRd (min s.txCnt (min (s.cfg.cTx - s.txRd) s.cfg.xferMaxTx)))) := rfl

/-- The state after a receive submit (R112). -/
theorem submitRxRegion_eq (s : State) :
    submitRxRegion s =
      (s.submitRx s.rxWr (min s.rxFree (min (s.cfg.cRx - s.rxWr) s.cfg.xferMaxRx))).emit
        (.submitRx s.rxWr (min s.rxFree (min (s.cfg.cRx - s.rxWr) s.cfg.xferMaxRx))) := rfl

@[simp] theorem armTx_cfg : (armTx s).1.cfg = s.cfg := by
  rcases armTx_cases s with h | h | h | h <;> simp [h, submitTxRegion_eq]
@[simp] theorem armTx_isOpen : (armTx s).1.isOpen = s.isOpen := by
  rcases armTx_cases s with h | h | h | h <;> simp [h, submitTxRegion_eq]
@[simp] theorem armTx_rxState : (armTx s).1.rxState = s.rxState := by
  rcases armTx_cases s with h | h | h | h <;> simp [h, submitTxRegion_eq]
@[simp] theorem armTx_rxXferOff : (armTx s).1.rxXferOff = s.rxXferOff := by
  rcases armTx_cases s with h | h | h | h <;> simp [h, submitTxRegion_eq]
@[simp] theorem armTx_rxXferLen : (armTx s).1.rxXferLen = s.rxXferLen := by
  rcases armTx_cases s with h | h | h | h <;> simp [h, submitTxRegion_eq]
@[simp] theorem armTx_txRd : (armTx s).1.txRd = s.txRd := by
  rcases armTx_cases s with h | h | h | h <;> simp [h, submitTxRegion_eq]
@[simp] theorem armTx_txCnt : (armTx s).1.txCnt = s.txCnt := by
  rcases armTx_cases s with h | h | h | h <;> simp [h, submitTxRegion_eq]
@[simp] theorem armTx_rxRd : (armTx s).1.rxRd = s.rxRd := by
  rcases armTx_cases s with h | h | h | h <;> simp [h, submitTxRegion_eq]
@[simp] theorem armTx_rxCnt : (armTx s).1.rxCnt = s.rxCnt := by
  rcases armTx_cases s with h | h | h | h <;> simp [h, submitTxRegion_eq]
@[simp] theorem armTx_txBuf : (armTx s).1.txBuf = s.txBuf := by
  rcases armTx_cases s with h | h | h | h <;> simp [h, submitTxRegion_eq]
@[simp] theorem armTx_rxBuf : (armTx s).1.rxBuf = s.rxBuf := by
  rcases armTx_cases s with h | h | h | h <;> simp [h, submitTxRegion_eq]
@[simp] theorem armTx_handlerMask : (armTx s).1.handlerMask = s.handlerMask := by
  rcases armTx_cases s with h | h | h | h <;> simp [h, submitTxRegion_eq]
@[simp] theorem armTx_taskQ : (armTx s).1.taskQ = s.taskQ := by
  rcases armTx_cases s with h | h | h | h <;> simp [h, submitTxRegion_eq]
@[simp] theorem armTx_decodeActive : (armTx s).1.decodeActive = s.decodeActive := by
  rcases armTx_cases s with h | h | h | h <;> simp [h, submitTxRegion_eq]
@[simp] theorem armTx_fault : (armTx s).1.fault = s.fault := by
  rcases armTx_cases s with h | h | h | h <;> simp [h, submitTxRegion_eq]
@[simp] theorem armTx_requests : (armTx s).1.requests = s.requests := by
  rcases armTx_cases s with h | h | h | h <;> simp [h, submitTxRegion_eq]
@[simp] theorem armTx_reply : (armTx s).1.reply = s.reply := by
  rcases armTx_cases s with h | h | h | h <;> simp [h, submitTxRegion_eq]

@[simp] theorem armRx_cfg : (armRx s).1.cfg = s.cfg := by
  rcases armRx_cases s with h | h | h | h <;> simp [h, submitRxRegion_eq]
@[simp] theorem armRx_isOpen : (armRx s).1.isOpen = s.isOpen := by
  rcases armRx_cases s with h | h | h | h <;> simp [h, submitRxRegion_eq]
@[simp] theorem armRx_txState : (armRx s).1.txState = s.txState := by
  rcases armRx_cases s with h | h | h | h <;> simp [h, submitRxRegion_eq]
@[simp] theorem armRx_txXferOff : (armRx s).1.txXferOff = s.txXferOff := by
  rcases armRx_cases s with h | h | h | h <;> simp [h, submitRxRegion_eq]
@[simp] theorem armRx_txXferLen : (armRx s).1.txXferLen = s.txXferLen := by
  rcases armRx_cases s with h | h | h | h <;> simp [h, submitRxRegion_eq]
@[simp] theorem armRx_txRd : (armRx s).1.txRd = s.txRd := by
  rcases armRx_cases s with h | h | h | h <;> simp [h, submitRxRegion_eq]
@[simp] theorem armRx_txCnt : (armRx s).1.txCnt = s.txCnt := by
  rcases armRx_cases s with h | h | h | h <;> simp [h, submitRxRegion_eq]
@[simp] theorem armRx_rxRd : (armRx s).1.rxRd = s.rxRd := by
  rcases armRx_cases s with h | h | h | h <;> simp [h, submitRxRegion_eq]
@[simp] theorem armRx_rxCnt : (armRx s).1.rxCnt = s.rxCnt := by
  rcases armRx_cases s with h | h | h | h <;> simp [h, submitRxRegion_eq]
@[simp] theorem armRx_txBuf : (armRx s).1.txBuf = s.txBuf := by
  rcases armRx_cases s with h | h | h | h <;> simp [h, submitRxRegion_eq]
@[simp] theorem armRx_rxBuf : (armRx s).1.rxBuf = s.rxBuf := by
  rcases armRx_cases s with h | h | h | h <;> simp [h, submitRxRegion_eq]
@[simp] theorem armRx_handlerMask : (armRx s).1.handlerMask = s.handlerMask := by
  rcases armRx_cases s with h | h | h | h <;> simp [h, submitRxRegion_eq]
@[simp] theorem armRx_taskQ : (armRx s).1.taskQ = s.taskQ := by
  rcases armRx_cases s with h | h | h | h <;> simp [h, submitRxRegion_eq]
@[simp] theorem armRx_decodeActive : (armRx s).1.decodeActive = s.decodeActive := by
  rcases armRx_cases s with h | h | h | h <;> simp [h, submitRxRegion_eq]
@[simp] theorem armRx_fault : (armRx s).1.fault = s.fault := by
  rcases armRx_cases s with h | h | h | h <;> simp [h, submitRxRegion_eq]
@[simp] theorem armRx_requests : (armRx s).1.requests = s.requests := by
  rcases armRx_cases s with h | h | h | h <;> simp [h, submitRxRegion_eq]
@[simp] theorem armRx_reply : (armRx s).1.reply = s.reply := by
  rcases armRx_cases s with h | h | h | h <;> simp [h, submitRxRegion_eq]

/-! ### Queuing and delivering -/

/-- Everything `SEND(cable, msg)` can do (R191). -/
theorem sendMessage_cases (s : State) (cable : Nat) (msg : List Byte) :
    (∃ r, sendMessage s cable msg = (s, r) ∧ r ≠ .ok) ∨
    (∃ m, messageOf msg = some m ∧ cable < 16 ∧ s.isOpen = true ∧ 4 ≤ s.txFree ∧
      sendMessage s cable msg =
        ((armTx (s.queuePacket (pack s.cfg (cableNibble cable) (cinOf m) m))).1, .ok)) := by
  unfold sendMessage
  by_cases hc : 16 ≤ cable
  · exact .inl ⟨_, by rw [if_pos hc], by decide⟩
  · rw [if_neg hc]
    cases hm : messageOf msg with
    | none => exact .inl ⟨_, rfl, by decide⟩
    | some m =>
      by_cases ho : s.isOpen = false
      · exact .inl ⟨.rejectNotOpen, by simp [ho], by decide⟩
      · by_cases hf : s.txFree < 4
        · exact .inl ⟨.bufferFull, by simp [ho, hf], by decide⟩
        · exact .inr ⟨m, rfl, by omega, by simpa using ho, by omega, by simp [ho, hf]⟩

theorem dispatchable_iff (s : State) (cable : Nibble) :
    s.dispatchable cable = true ↔ cable.toNat < s.cfg.nRx ∧ s.handlerMask.getLsbD cable.toNat = true := by
  simp [State.dispatchable, State.handlerBit]

@[simp] theorem dispatchable_consumeGroup (cable : Nibble) :
    s.consumeGroup.dispatchable cable = s.dispatchable cable := rfl

/-- The write cursor stays where it is when a group is consumed (R37 (c)). -/
theorem rxWr_consumeGroup (h : 4 ≤ s.rxCnt) : s.consumeGroup.rxWr = s.rxWr := by
  simp only [State.rxWr, State.consumeGroup_rxRd, State.consumeGroup_rxCnt, State.consumeGroup_cfg]
  rw [Nat.mod_add_mod]
  congr 1
  omega

/-- The Dispatch event of a packet, if its cable has a handler (R175, R183). -/
def deliveredEvents (s : State) (u : Unpacked) : List Event :=
  if s.dispatchable (rxCableOf s.cfg u.nibble) = true then
    [.dispatch (rxCableOf s.cfg u.nibble) u.cin u.b1 u.b2 u.b3]
  else []

/-- Delivering a packet appends at most its Dispatch event and changes nothing else. -/
theorem deliver_fst (s : State) (u : Unpacked) :
    (deliver s u).1 = { s with trace := s.trace ++ deliveredEvents s u } := by
  unfold deliver deliveredEvents
  by_cases h : s.dispatchable (rxCableOf s.cfg u.nibble) = true <;> simp [h, State.emit]

theorem deliver_snd (s : State) (u : Unpacked) :
    (deliver s u).2 =
      if s.dispatchable (rxCableOf s.cfg u.nibble) = true then .dispatched else .dropped := by
  unfold deliver
  by_cases h : s.dispatchable (rxCableOf s.cfg u.nibble) = true <;> simp [h]

@[simp] theorem deliver_cfg (u : Unpacked) : (deliver s u).1.cfg = s.cfg := by rw [deliver_fst]
@[simp] theorem deliver_isOpen (u : Unpacked) : (deliver s u).1.isOpen = s.isOpen := by rw [deliver_fst]
@[simp] theorem deliver_txState (u : Unpacked) : (deliver s u).1.txState = s.txState := by rw [deliver_fst]
@[simp] theorem deliver_rxState (u : Unpacked) : (deliver s u).1.rxState = s.rxState := by rw [deliver_fst]
@[simp] theorem deliver_txXferOff (u : Unpacked) : (deliver s u).1.txXferOff = s.txXferOff := by rw [deliver_fst]
@[simp] theorem deliver_txXferLen (u : Unpacked) : (deliver s u).1.txXferLen = s.txXferLen := by rw [deliver_fst]
@[simp] theorem deliver_rxXferOff (u : Unpacked) : (deliver s u).1.rxXferOff = s.rxXferOff := by rw [deliver_fst]
@[simp] theorem deliver_rxXferLen (u : Unpacked) : (deliver s u).1.rxXferLen = s.rxXferLen := by rw [deliver_fst]
@[simp] theorem deliver_txRd (u : Unpacked) : (deliver s u).1.txRd = s.txRd := by rw [deliver_fst]
@[simp] theorem deliver_txCnt (u : Unpacked) : (deliver s u).1.txCnt = s.txCnt := by rw [deliver_fst]
@[simp] theorem deliver_rxRd (u : Unpacked) : (deliver s u).1.rxRd = s.rxRd := by rw [deliver_fst]
@[simp] theorem deliver_rxCnt (u : Unpacked) : (deliver s u).1.rxCnt = s.rxCnt := by rw [deliver_fst]
@[simp] theorem deliver_txBuf (u : Unpacked) : (deliver s u).1.txBuf = s.txBuf := by rw [deliver_fst]
@[simp] theorem deliver_rxBuf (u : Unpacked) : (deliver s u).1.rxBuf = s.rxBuf := by rw [deliver_fst]
@[simp] theorem deliver_handlerMask (u : Unpacked) : (deliver s u).1.handlerMask = s.handlerMask := by rw [deliver_fst]
@[simp] theorem deliver_taskQ (u : Unpacked) : (deliver s u).1.taskQ = s.taskQ := by rw [deliver_fst]
@[simp] theorem deliver_decodeActive (u : Unpacked) : (deliver s u).1.decodeActive = s.decodeActive := by rw [deliver_fst]
@[simp] theorem deliver_fault (u : Unpacked) : (deliver s u).1.fault = s.fault := by rw [deliver_fst]
@[simp] theorem deliver_requests (u : Unpacked) : (deliver s u).1.requests = s.requests := by rw [deliver_fst]
@[simp] theorem deliver_reply (u : Unpacked) : (deliver s u).1.reply = s.reply := by rw [deliver_fst]

end Sys2Proof.Machine

/-! ### The configuration's bounds (R12) -/

namespace Sys2Proof

theorem Config.bounds (c : Config) :
    1 ≤ c.nRx ∧ c.nRx ≤ 16 ∧ 4 ≤ c.cTx ∧ c.cTx % 4 = 0 ∧ 4 ≤ c.cRx ∧ c.cRx % 4 = 0 ∧
      1 ≤ c.xferMaxTx ∧ 1 ≤ c.xferMaxRx := by
  have h := c.isValid
  simp only [Params.valid, capacityOk, Bool.and_eq_true, decide_eq_true_eq, beq_iff_eq] at h
  omega

theorem Config.cTx_ge (c : Config) : 4 ≤ c.cTx := (Config.bounds c).2.2.1

theorem Config.cRx_ge (c : Config) : 4 ≤ c.cRx := (Config.bounds c).2.2.2.2.1

end Sys2Proof
end

