-- ==== Sys2Proof/Laws/Exec.lean ====
section
/-! SUPPORT. One inversion lemma a meaning: everything it can do when it gives a next state, guards
included. The sixteen packets share one, and so do the helpers. -/

namespace Sys2Proof.Machine

variable {s t : State}

/-- An operation that gives a next state ran while FAULT was none (R36). -/
theorem exec_next_unfaulted {i : Instr} (h : exec i s = .next t) : s.fault = none := by
  cases i <;> exact (unlessFaulted_next.mp h).1

theorem execOpen_next (h : execOpen s = .next t) :
    (s.isOpen = true ∧ t = (s.withFault .openWhileOpen).withReply none) ∨
    (s.isOpen = false ∧ (s.txState = .transferPending ∨ s.rxState = .transferPending) ∧
      t = (s.withFault (.openWhilePending (s.txState = .transferPending)
        (s.rxState = .transferPending))).withReply none) ∨
    (s.isOpen = false ∧ s.txState = .idle ∧ s.rxState = .idle ∧
      t = (submitRxRegion (s.restartRings.setOpen true)).withReply (some (.code .ok))) := by
  have hb := (unlessFaulted_next.mp h).2
  have hc := s.cfg.cRx_ge
  cases ho : s.isOpen
  · by_cases hp : s.txState = .transferPending ∨ s.rxState = .transferPending
    · rw [if_neg (by simp [ho]), if_pos hp, raiseFault_next] at hb
      exact .inr (.inl ⟨rfl, hp, hb.symm⟩)
    · rw [if_neg (by simp [ho]), if_neg hp, finish_next] at hb
      have ht : s.txState = .idle := by cases h' : s.txState <;> simp_all
      have hr : s.rxState = .idle := by cases h' : s.rxState <;> simp_all
      rw [armTx_empty (by simp) (by simp [ht]) (by simp), armRx_submits (by simp) (by simp [hr])] at hb
      · exact .inr (.inr ⟨rfl, ht, hr, hb.symm⟩)
      · simp only [State.rxFree, State.setOpen_cfg, State.restartRings_cfg, State.setOpen_rxCnt,
          State.restartRings_rxCnt]
        omega
  · rw [if_pos ho, raiseFault_next] at hb
    exact .inl ⟨rfl, hb.symm⟩

theorem execClose_next (h : execClose s = .next t) : t = (s.setOpen false).withReply (some (.code .ok)) :=
  (finish_next.mp (unlessFaulted_next.mp h).2).symm

theorem execArmTx_next (h : execArmTx s = .next t) :
    t = (armTx s).1.withReply (some (.code (armTx s).2)) :=
  (finishCode_next.mp (unlessFaulted_next.mp h).2).symm

theorem execArmRx_next (h : execArmRx s = .next t) :
    t = (armRx s).1.withReply (some (.code (armRx s).2)) :=
  (finishCode_next.mp (unlessFaulted_next.mp h).2).symm

theorem execCompleteTx_next {status length : Nat} (h : execCompleteTx status length s = .next t) :
    (s.txState = .idle ∧ t = (s.withFault (.spuriousCompletion .tx)).withReply none) ∨
    (s.txState = .transferPending ∧ s.isOpen = true ∧ status = 0 ∧ s.txXferLen < length ∧
      t = (s.withFault (.lengthOverrun .tx length s.txXferLen)).withReply none) ∨
    (s.txState = .transferPending ∧ s.isOpen = false ∧ t = s.txToIdle.withReply (some (.code .ok))) ∨
    (s.txState = .transferPending ∧ s.isOpen = true ∧ status = 0 ∧ length ≤ s.txXferLen ∧
      t = (armTx (s.txToIdle.advanceTx length)).1.withReply (some (.code .ok))) ∨
    (s.txState = .transferPending ∧ s.isOpen = true ∧ status ≠ 0 ∧
      t = (armTx s.txToIdle).1.withReply (some (.code .ok))) := by
  have hb := (unlessFaulted_next.mp h).2
  cases ht : s.txState
  · rw [if_pos ht, raiseFault_next] at hb
    exact .inl ⟨rfl, hb.symm⟩
  · rw [if_neg (by simp [ht])] at hb
    cases ho : s.isOpen
    · rw [if_neg (by simp [ho]), if_pos ho, finish_next] at hb
      exact .inr (.inr (.inl ⟨rfl, rfl, hb.symm⟩))
    · by_cases hs : status = 0
      · by_cases hl : s.txXferLen < length
        · rw [if_pos ⟨ho, hs, hl⟩, raiseFault_next] at hb
          exact .inr (.inl ⟨rfl, rfl, hs, hl, hb.symm⟩)
        · rw [if_neg (by simp [hl]), if_neg (by simp [ho]), finish_next, settleTx, if_pos hs] at hb
          exact .inr (.inr (.inr (.inl ⟨rfl, rfl, hs, Nat.not_lt.mp hl, hb.symm⟩)))
      · rw [if_neg (by simp [hs]), if_neg (by simp [ho]), finish_next, settleTx, if_neg hs] at hb
        exact .inr (.inr (.inr (.inr ⟨rfl, rfl, hs, hb.symm⟩)))

theorem execCompleteRx_next {status length : Nat} {data : List Byte}
    (h : execCompleteRx status length data s = .next t) :
    data.length = length ∧
    ((s.rxState = .idle ∧ t = (s.withFault (.spuriousCompletion .rx)).withReply none) ∨
    (s.rxState = .transferPending ∧ s.isOpen = true ∧ status = 0 ∧ s.rxXferLen < length ∧
      t = (s.withFault (.lengthOverrun .rx length s.rxXferLen)).withReply none) ∨
    (s.rxState = .transferPending ∧ s.isOpen = false ∧ t = s.rxToIdle.withReply (some (.code .ok))) ∨
    (s.rxState = .transferPending ∧ s.isOpen = true ∧ status = 0 ∧ length ≤ s.rxXferLen ∧
      (0 < length → s.rxXferOff + length ≤ s.cfg.cRx) ∧
      t = (armRx (s.rxToIdle.receive length data)).1.withReply (some (.code .ok))) ∨
    (s.rxState = .transferPending ∧ s.isOpen = true ∧ status ≠ 0 ∧
      t = (armRx s.rxToIdle).1.withReply (some (.code .ok)))) := by
  have hb := (unlessFaulted_next.mp h).2
  have hd : data.length = length := by
    refine Decidable.byContradiction fun hd => ?_
    rw [if_pos hd] at hb
    cases hb
  refine ⟨hd, ?_⟩
  rw [if_neg (by simp [hd])] at hb
  cases ht : s.rxState
  · rw [if_pos ht, raiseFault_next] at hb
    exact .inl ⟨rfl, hb.symm⟩
  · rw [if_neg (by simp [ht])] at hb
    cases ho : s.isOpen
    · rw [if_neg (by simp [ho]), if_pos ho, finish_next] at hb
      exact .inr (.inr (.inl ⟨rfl, rfl, hb.symm⟩))
    · by_cases hs : status = 0
      · by_cases hl : s.rxXferLen < length
        · rw [if_pos ⟨ho, hs, hl⟩, raiseFault_next] at hb
          exact .inr (.inl ⟨rfl, rfl, hs, hl, hb.symm⟩)
        · rw [if_neg (by simp [hl]), if_neg (by simp [ho])] at hb
          by_cases hr : 0 < length ∧ s.cfg.cRx < s.rxXferOff + length
          · rw [if_pos ⟨hs, hr⟩] at hb; cases hb
          · rw [if_neg (fun hc => hr hc.2), finish_next, settleRx, if_pos hs] at hb
            exact .inr (.inr (.inr (.inl ⟨rfl, rfl, hs, Nat.not_lt.mp hl,
              fun h0 => Nat.not_lt.mp fun hlt => hr ⟨h0, hlt⟩, hb.symm⟩)))
      · rw [if_neg (by simp [hs]), if_neg (by simp [ho]), if_neg (by simp [hs]), finish_next, settleRx,
          if_neg hs] at hb
        exact .inr (.inr (.inr (.inr ⟨rfl, rfl, hs, hb.symm⟩)))

theorem packResult_ne_ok (c : Config) (cable cin : Nat) (b1 b2 b3 : Byte) :
    packResult c cable cin b1 b2 b3 ≠ .code .ok := by
  unfold packResult; (repeat' split) <;> simp

theorem encodeResult_ne_ok (c : Config) (cable : Nat) (msg : List Byte) :
    encodeResult c cable msg ≠ .code .ok := by
  unfold encodeResult; (repeat' split) <;> simp

theorem execPack_next {cable cin : Nat} {b1 b2 b3 : Byte} (h : execPack cable cin b1 b2 b3 s = .next t) :
    ∃ r, t = s.withReply (some r) ∧ r ≠ .code .ok :=
  ⟨_, (finish_next.mp (unlessFaulted_next.mp h).2).symm, packResult_ne_ok _ _ _ _ _ _⟩

theorem execEncode_next {cable : Nat} {msg : List Byte} (h : execEncode cable msg s = .next t) :
    ∃ r, t = s.withReply (some r) ∧ r ≠ .code .ok :=
  ⟨_, (finish_next.mp (unlessFaulted_next.mp h).2).symm, encodeResult_ne_ok _ _ _⟩

theorem execDecodePacket_next {p0 p1 p2 p3 : Byte} (h : execDecodePacket p0 p1 p2 p3 s = .next t) :
    ∃ r, t = s.withReply (some r) ∧ r ≠ .code .ok :=
  ⟨_, (finish_next.mp (unlessFaulted_next.mp h).2).symm, by simp [decodePacketResult]⟩

theorem execRunTask_next (h : execRunTask s = .next t) :
    (s.decodeActive = true ∧ t = s.withReply (some (.code .noopBusy))) ∨
    (s.decodeActive = false ∧ s.taskQ = 0 ∧ t = s.withReply (some (.code .noopIdle))) ∨
    (s.decodeActive = false ∧ s.taskQ ≠ 0 ∧ t = s.startTask.withReply (some (.code .ok))) := by
  have hb := (unlessFaulted_next.mp h).2
  cases ha : s.decodeActive
  · rw [if_neg (by simp [ha])] at hb
    by_cases hq : s.taskQ = 0
    · rw [if_pos hq, finish_next] at hb; exact .inr (.inl ⟨rfl, hq, hb.symm⟩)
    · rw [if_neg hq, finish_next] at hb; exact .inr (.inr ⟨rfl, hq, hb.symm⟩)
  · rw [if_pos ha, finish_next] at hb; exact .inl ⟨rfl, hb.symm⟩

theorem execDecodeStep_next (h : execDecodeStep s = .next t) :
    (s.decodeActive = false ∧ t = s.withReply (some (.code .noopIdle))) ∨
    (s.decodeActive = true ∧ s.isOpen = false ∧ t = s.endTask.withReply (some (.code .taskDone))) ∨
    (s.decodeActive = true ∧ s.isOpen = true ∧ s.rxCnt < 4 ∧
      t = (armRx s.endTask).1.withReply (some (.code .taskDone))) ∨
    (s.decodeActive = true ∧ s.isOpen = true ∧ 4 ≤ s.rxCnt ∧
      t = (armRx (deliver s.consumeGroup (unpack (headPacket s))).1).1.withReply
        (some (.code (deliver s.consumeGroup (unpack (headPacket s))).2))) := by
  have hb := (unlessFaulted_next.mp h).2
  cases ha : s.decodeActive
  · rw [if_pos ha, finish_next] at hb; exact .inl ⟨rfl, hb.symm⟩
  · rw [if_neg (by simp [ha])] at hb
    cases ho : s.isOpen
    · rw [if_pos ho, finish_next] at hb; exact .inr (.inl ⟨rfl, rfl, hb.symm⟩)
    · rw [if_neg (by simp [ho])] at hb
      by_cases hc : s.rxCnt < 4
      · rw [if_pos hc, finish_next] at hb; exact .inr (.inr (.inl ⟨rfl, rfl, hc, hb.symm⟩))
      · rw [if_neg hc] at hb
        exact .inr (.inr (.inr ⟨rfl, rfl, Nat.not_lt.mp hc, (finish_next.mp hb).symm⟩))

/-- What SEND and the helpers can do: a refusal that writes nothing, or a packet queued and an arm attempt. -/
theorem finishSend_next {cable : Nat} {msg : List Byte} (h : finishCode (sendMessage s cable msg) = .next t) :
    (∃ r, r ≠ .ok ∧ t = s.withReply (some (.code r))) ∨
    (∃ m, messageOf msg = some m ∧ cable < 16 ∧ s.isOpen = true ∧ 4 ≤ s.txFree ∧
      t = (armTx (s.queuePacket (pack s.cfg (cableNibble cable) (cinOf m) m))).1.withReply
        (some (.code .ok))) := by
  rw [finishCode_next] at h
  rcases sendMessage_cases s cable msg with ⟨r, hr, hne⟩ | ⟨m, hm, hc, ho, hf, hr⟩
  · rw [hr] at h; exact .inl ⟨r, hne, h.symm⟩
  · rw [hr] at h; exact .inr ⟨m, hm, hc, ho, hf, h.symm⟩

theorem execSend_next {cable : Nat} {msg : List Byte} (h : execSend cable msg s = .next t) :
    (∃ r, r ≠ .ok ∧ t = s.withReply (some (.code r))) ∨
    (∃ m, messageOf msg = some m ∧ cable < 16 ∧ s.isOpen = true ∧ 4 ≤ s.txFree ∧
      t = (armTx (s.queuePacket (pack s.cfg (cableNibble cable) (cinOf m) m))).1.withReply
        (some (.code .ok))) :=
  finishSend_next (unlessFaulted_next.mp h).2

theorem sendHelper_next {base : Byte} {cable channel : Nat} {b1 b2 : Byte}
    (h : sendHelper base cable channel b1 b2 s = .next t) :
    (∃ r, r ≠ .ok ∧ t = s.withReply (some (.code r))) ∨
    (channel < 16 ∧ cable < 16 ∧ s.isOpen = true ∧ 4 ≤ s.txFree ∧
      t = (armTx (s.queuePacket (pack s.cfg (cableNibble cable)
        (cinOf (.three (statusByte base channel) b1 b2)) (.three (statusByte base channel) b1 b2)))).1.withReply
        (some (.code .ok))) := by
  have hb := (unlessFaulted_next.mp h).2
  by_cases hc : 16 ≤ channel
  · rw [if_pos hc, reject_next] at hb; exact .inl ⟨_, by decide, hb.symm⟩
  · rw [if_neg hc] at hb
    rcases finishSend_next hb with h' | ⟨m, hm, h1, h2, h3, h4⟩
    · exact .inl h'
    · cases hm; exact .inr ⟨by omega, h1, h2, h3, h4⟩

theorem execRegister_next {cable : Nat} {present : Bool} (h : execRegister cable present s = .next t) :
    (s.cfg.nRx ≤ cable ∧ t = s.withReply (some (.code .rejectCableRange))) ∨
    (cable < s.cfg.nRx ∧ t = (s.setHandler cable present).withReply (some (.code .ok))) := by
  have hb := (unlessFaulted_next.mp h).2
  by_cases hc : s.cfg.nRx ≤ cable
  · rw [if_pos hc, reject_next] at hb; exact .inl ⟨hc, hb.symm⟩
  · rw [if_neg hc, finish_next] at hb; exact .inr ⟨by omega, hb.symm⟩

theorem deliverPacket_next {u : Unpacked} (h : deliverPacket u s = .next t) :
    t = (deliver s u).1.withReply (some (.code (deliver s u).2)) :=
  (finishCode_next.mp (unlessFaulted_next.mp h).2).symm

/-- The result of delivering a packet is DISPATCHED or DROPPED. -/
theorem deliver_snd_ne_ok (s : State) (u : Unpacked) : (deliver s u).2 ≠ .ok := by
  rw [deliver_snd]; split <;> decide

/-- A packet row is the delivery of its fields. -/
theorem exec_packet {i : Instr} (h : i.format = .eventPacket) :
    ∃ u : Unpacked, (∀ s, exec i s = deliverPacket u s) ∧
      encode i = packetBytes u.nibble u.cin u.b1 u.b2 u.b3 := by
  cases i <;> first | (exact ⟨_, fun _ => rfl, rfl⟩) | cases h

/-- A step that gives a next state took a request that decodes, of an agent that may issue it, and ran it. -/
theorem step_next (h : step s = .next t) :
    ∃ r rs i, s.fault = none ∧ s.requests = r :: rs ∧ decodeRequest r.bytes = .ok i ∧
      mayIssue r.issuer i = true ∧ exec i (s.withRequests rs) = .next t := by
  obtain ⟨hf, hb⟩ := unlessFaulted_next.mp h
  cases hq : s.requests with
  | nil => rw [fetch, hq] at hb; cases hb
  | cons r rs =>
    rw [fetch, hq] at hb
    simp only at hb
    cases hd : decodeRequest r.bytes with
    | error e => rw [hd] at hb; cases hb
    | ok i =>
      rw [hd] at hb
      simp only at hb
      by_cases hm : mayIssue r.issuer i = true
      · rw [if_pos hm] at hb; exact ⟨r, rs, i, hf, rfl, hd, hm, hb⟩
      · rw [if_neg hm] at hb; cases hb

end Sys2Proof.Machine
end

