-- ==== Sys2Proof/Laws/Invariants.lean ====
section
/-! SUPPORT. What the register writes and the arm attempts do to the ring invariants of Safety.lean: which
registers an invariant reads, and one lemma a write that touches them. -/

namespace Sys2Proof.Machine

variable {s t : State}

/-! ### The transmit ring -/

/-- The transmit invariant reads the transmit side's registers only. -/
theorem TxRingInv.congr (hs : TxRingInv s) (h1 : t.cfg = s.cfg) (h2 : t.txState = s.txState)
    (h3 : t.txXferOff = s.txXferOff) (h4 : t.txXferLen = s.txXferLen) (h5 : t.txRd = s.txRd)
    (h6 : t.txCnt = s.txCnt) (h7 : t.txBuf = s.txBuf) : TxRingInv t where
  rd_lt := by rw [h1, h5]; exact hs.rd_lt
  cnt_le := by rw [h1, h6]; exact hs.cnt_le
  wr_aligned := by unfold State.txWr; rw [h1, h5, h6]; exact hs.wr_aligned
  in_flight := by rw [h1, h2, h3, h4, h5, h6]; exact hs.in_flight
  canonical := by rw [h7]; exact hs.canonical
  in_range := by rw [h1, h7]; exact hs.in_range
  live := by rw [h1, h5, h6, h7]; exact hs.live

theorem TxRingInv.txToIdle (hs : TxRingInv s) : TxRingInv s.txToIdle where
  rd_lt := hs.rd_lt
  cnt_le := hs.cnt_le
  wr_aligned := hs.wr_aligned
  in_flight := by intro h; cases h
  canonical := hs.canonical
  in_range := hs.in_range
  live := hs.live

theorem TxRingInv.submit (hs : TxRingInv s) (hc : s.txCnt ≠ 0) : TxRingInv (submitTxRegion s) where
  rd_lt := hs.rd_lt
  cnt_le := hs.cnt_le
  wr_aligned := hs.wr_aligned
  in_flight := by
    intro _
    have h1 := hs.rd_lt
    have h2 := s.cfg.bounds
    refine ⟨rfl, ?_, ?_, ?_⟩ <;> simp only [submitTxRegion, txRegion, State.emit, State.submitTx] <;> omega
  canonical := hs.canonical
  in_range := hs.in_range
  live := hs.live

theorem TxRingInv.arm (hs : TxRingInv s) : TxRingInv (armTx s).1 := by
  rcases armTx_cases s with h | h | h | h
  · rw [h.2]; exact hs
  · rw [h.2.2]; exact hs
  · rw [h.2.2.2]; exact hs
  · rw [h.2.2.2]; exact hs.submit h.2.2.1

/-- The write cursor is where it was when bytes at the read cursor are confirmed (R114). -/
theorem advance_wr {cap rd cnt n : Nat} (h : n ≤ cnt) : ((rd + n) % cap + (cnt - n)) % cap = (rd + cnt) % cap := by
  rw [Nat.mod_add_mod]
  congr 1
  omega

/-- The live region shrinks from its front. -/
theorem advance_index {cap rd n i : Nat} : ((rd + n) % cap + i) % cap = (rd + (n + i)) % cap := by
  rw [Nat.mod_add_mod, Nat.add_assoc]

theorem TxRingInv.advance {n : Nat} (hs : TxRingInv s) (hn : n ≤ s.txCnt) :
    TxRingInv (s.txToIdle.advanceTx n) where
  rd_lt := Nat.mod_lt _ (by have := s.cfg.cTx_ge; show 0 < s.cfg.cTx; omega)
  cnt_le := by have := hs.cnt_le; show s.txCnt - n ≤ s.cfg.cTx; omega
  wr_aligned := by
    show ((s.txRd + n) % s.cfg.cTx + (s.txCnt - n)) % s.cfg.cTx % 4 = 0
    rw [advance_wr hn]
    exact hs.wr_aligned
  in_flight := by intro h; cases h
  canonical := hs.canonical
  in_range := hs.in_range
  live := by
    intro i hi
    have hi' : i < s.txCnt - n := hi
    show storedByte s.txBuf (((s.txRd + n) % s.cfg.cTx + i) % s.cfg.cTx) ≠ none
    rw [advance_index]
    exact hs.live _ (by omega)

theorem TxRingInv.restart (hs : TxRingInv s) (hi : s.txState = .idle) :
    TxRingInv (s.restartRings.setOpen true) where
  rd_lt := by have := s.cfg.cTx_ge; show 0 < s.cfg.cTx; omega
  cnt_le := Nat.zero_le _
  wr_aligned := by simp [State.txWr]
  in_flight := by intro h; rw [show (s.restartRings.setOpen true).txState = s.txState from rfl, hi] at h; cases h
  canonical := hs.canonical
  in_range := hs.in_range
  live := by intro i hi; exact absurd hi (Nat.not_lt_zero i)

/-- Where a byte of a queued packet stands, and that no live byte is overwritten. -/
theorem queuePacket_live {p : Packet} (h : 4 ≤ s.txFree) {i : Nat} (hi : i < s.txCnt) :
    storedByte (s.queuePacket p).txBuf ((s.txRd + i) % s.cfg.cTx) =
      storedByte s.txBuf ((s.txRd + i) % s.cfg.cTx) := by
  refine storedByte_ringWrite_other _ _ _ _ _ fun j hj heq => ?_
  have hj' : j < 4 := hj
  rw [Nat.add_assoc] at heq
  unfold State.txFree at h
  have := mod_add_inj (by omega) (by omega) heq
  omega

theorem queuePacket_stored {p : Packet} {i : Nat} {v : Byte} (h : (packetList p)[i]? = some v) :
    storedByte (s.queuePacket p).txBuf ((s.txRd + s.txCnt + i) % s.cfg.cTx) = some v :=
  storedByte_ringWrite_at _ _ _ _ _ _ s.cfg.cTx_ge h

theorem queuePacket_kept {p : Packet} {a : Nat} (h : ∀ i, i < 4 → a ≠ (s.txRd + s.txCnt + i) % s.cfg.cTx) :
    storedByte (s.queuePacket p).txBuf a = storedByte s.txBuf a :=
  storedByte_ringWrite_other _ _ _ _ _ h

/-- The four bytes of a packet, by position. -/
theorem packetList_get {p : Packet} {i : Nat} (h : i < 4) : ∃ v, (packetList p)[i]? = some v :=
  ⟨_, List.getElem?_eq_getElem (show i < (packetList p).length from h)⟩

theorem wr_step_aligned {cap rd cnt : Nat} (hcap : cap % 4 = 0) (h : (rd + cnt) % cap % 4 = 0) :
    (rd + (cnt + 4)) % cap % 4 = 0 := by
  have hd : 4 ∣ cap := Nat.dvd_of_mod_eq_zero hcap
  rw [Nat.mod_mod_of_dvd _ hd] at h ⊢
  omega

theorem TxRingInv.queue (hs : TxRingInv s) (p : Packet) (h : 4 ≤ s.txFree) : TxRingInv (s.queuePacket p) where
  rd_lt := hs.rd_lt
  cnt_le := by unfold State.txFree at h; show s.txCnt + 4 ≤ s.cfg.cTx; omega
  wr_aligned := wr_step_aligned s.cfg.bounds.2.2.2.1 hs.wr_aligned
  in_flight := by
    intro hp
    obtain ⟨h1, h2, h3, h4⟩ := hs.in_flight hp
    exact ⟨h1, h2, Nat.le_trans h3 (Nat.le_add_right _ _), h4⟩
  canonical := ringWrite_wf _ _ _ _ hs.canonical
  in_range := by
    intro a ha
    rw [queuePacket_kept]
    · exact hs.in_range a ha
    · intro i _ heq
      have : (s.txRd + s.txCnt + i) % s.cfg.cTx < s.cfg.cTx := Nat.mod_lt _ (by have := s.cfg.cTx_ge; omega)
      exact absurd ha (by rw [heq]; exact Nat.not_le.mpr this)
  live := by
    intro i hi
    have hi' : i < s.txCnt + 4 := hi
    show storedByte (s.queuePacket p).txBuf ((s.txRd + i) % s.cfg.cTx) ≠ none
    by_cases hlt : i < s.txCnt
    · rw [queuePacket_live h hlt]; exact hs.live i hlt
    · obtain ⟨v, hv⟩ := packetList_get (p := p) (i := i - s.txCnt) (by omega)
      have := queuePacket_stored (s := s) hv
      rw [show s.txRd + s.txCnt + (i - s.txCnt) = s.txRd + i by omega] at this
      rw [this]; simp

/-! ### The receive ring -/

/-- The receive invariant reads the receive side's registers only. -/
theorem RxRingInv.congr (hs : RxRingInv s) (h1 : t.cfg = s.cfg) (h2 : t.rxState = s.rxState)
    (h3 : t.rxXferOff = s.rxXferOff) (h4 : t.rxXferLen = s.rxXferLen) (h5 : t.rxRd = s.rxRd)
    (h6 : t.rxCnt = s.rxCnt) (h7 : t.rxBuf = s.rxBuf) : RxRingInv t where
  rd_lt := by rw [h1, h5]; exact hs.rd_lt
  cnt_le := by rw [h1, h6]; exact hs.cnt_le
  rd_aligned := by rw [h5]; exact hs.rd_aligned
  in_flight := by unfold State.rxWr State.rxFree; rw [h1, h2, h3, h4, h5, h6]; exact hs.in_flight
  canonical := by rw [h7]; exact hs.canonical
  in_range := by rw [h1, h7]; exact hs.in_range
  live := by rw [h1, h5, h6, h7]; exact hs.live

theorem RxRingInv.rxToIdle (hs : RxRingInv s) : RxRingInv s.rxToIdle where
  rd_lt := hs.rd_lt
  cnt_le := hs.cnt_le
  rd_aligned := hs.rd_aligned
  in_flight := by intro h; cases h
  canonical := hs.canonical
  in_range := hs.in_range
  live := hs.live

theorem rxWr_lt (s : State) : s.rxWr < s.cfg.cRx :=
  Nat.mod_lt _ (by have := s.cfg.cRx_ge; omega)

theorem RxRingInv.submit (hs : RxRingInv s) (hc : s.rxFree ≠ 0) : RxRingInv (submitRxRegion s) where
  rd_lt := hs.rd_lt
  cnt_le := hs.cnt_le
  rd_aligned := hs.rd_aligned
  in_flight := by
    intro _
    have h1 := rxWr_lt s
    have h2 := s.cfg.bounds
    refine ⟨rfl, ?_, ?_, ?_⟩
    · show 1 ≤ min s.rxFree (min (s.cfg.cRx - s.rxWr) s.cfg.xferMaxRx); omega
    · show min s.rxFree (min (s.cfg.cRx - s.rxWr) s.cfg.xferMaxRx) ≤ s.rxFree; omega
    · show s.rxWr + min s.rxFree (min (s.cfg.cRx - s.rxWr) s.cfg.xferMaxRx) ≤ s.cfg.cRx; omega
  canonical := hs.canonical
  in_range := hs.in_range
  live := hs.live

theorem RxRingInv.arm (hs : RxRingInv s) : RxRingInv (armRx s).1 := by
  rcases armRx_cases s with h | h | h | h
  · rw [h.2]; exact hs
  · rw [h.2.2]; exact hs
  · rw [h.2.2.2]; exact hs
  · rw [h.2.2.2]; exact hs.submit h.2.2.1

theorem RxRingInv.restart (hs : RxRingInv s) (hi : s.rxState = .idle) :
    RxRingInv (s.restartRings.setOpen true) where
  rd_lt := by have := s.cfg.cRx_ge; show 0 < s.cfg.cRx; omega
  cnt_le := Nat.zero_le _
  rd_aligned := rfl
  in_flight := by intro h; rw [show (s.restartRings.setOpen true).rxState = s.rxState from rfl, hi] at h; cases h
  canonical := hs.canonical
  in_range := hs.in_range
  live := by intro i hi; exact absurd hi (Nat.not_lt_zero i)

/-- Inside an offered region the ring index of the next received byte is its plain address (R107). -/
theorem RxRingInv.region_index (hs : RxRingInv s) (hp : s.rxState = .transferPending) {i : Nat}
    (hi : i < s.rxXferLen) : (s.rxRd + (s.rxCnt + i)) % s.cfg.cRx = s.rxXferOff + i := by
  obtain ⟨h1, _, _, h4⟩ := hs.in_flight hp
  rw [← Nat.add_assoc, Nat.add_mod]
  unfold State.rxWr at h1
  rw [← h1, Nat.mod_eq_of_lt (a := i) (by omega), Nat.mod_eq_of_lt (by omega)]

/-- The bytes of a receive completion leave the live bytes alone. -/
theorem RxRingInv.receive_live (hs : RxRingInv s) (hp : s.rxState = .transferPending) {data : List Byte}
    (hn : data.length ≤ s.rxXferLen) {i : Nat} (hi : i < s.rxCnt) :
    storedByte (memWriteFrom s.rxBuf s.rxXferOff data) ((s.rxRd + i) % s.cfg.cRx) =
      storedByte s.rxBuf ((s.rxRd + i) % s.cfg.cRx) := by
  rw [storedByte_memWriteFrom, if_neg]
  rintro ⟨h1, h2⟩
  obtain ⟨-, -, h4, -⟩ := hs.in_flight hp
  have hc := hs.cnt_le
  unfold State.rxFree at h4
  have hr := hs.region_index hp (i := (s.rxRd + i) % s.cfg.cRx - s.rxXferOff) (by omega)
  rw [show s.rxXferOff + ((s.rxRd + i) % s.cfg.cRx - s.rxXferOff) = (s.rxRd + i) % s.cfg.cRx by omega] at hr
  have := mod_add_inj (by omega) (by omega) hr
  omega

/-- The bytes of a receive completion follow the live bytes. -/
theorem RxRingInv.receive_stored (hs : RxRingInv s) (hp : s.rxState = .transferPending) {data : List Byte}
    (hn : data.length ≤ s.rxXferLen) {i : Nat} (hi : i < data.length) :
    storedByte (memWriteFrom s.rxBuf s.rxXferOff data) ((s.rxRd + (s.rxCnt + i)) % s.cfg.cRx) = some data[i] := by
  rw [hs.region_index hp (by omega), storedByte_memWriteFrom, if_pos (by omega), Nat.add_sub_cancel_left,
    List.getElem?_eq_getElem hi]

theorem RxRingInv.receive (hs : RxRingInv s) (hp : s.rxState = .transferPending) {data : List Byte}
    (hn : data.length ≤ s.rxXferLen) : RxRingInv (s.rxToIdle.receive data.length data) where
  rd_lt := hs.rd_lt
  cnt_le := by
    obtain ⟨-, -, h4, -⟩ := hs.in_flight hp
    have hc := hs.cnt_le
    unfold State.rxFree at h4
    show s.rxCnt + data.length ≤ s.cfg.cRx
    omega
  rd_aligned := hs.rd_aligned
  in_flight := by intro h; cases h
  canonical := memWriteFrom_wf _ _ _ hs.canonical
  in_range := by
    intro a ha
    have ha' : s.cfg.cRx ≤ a := ha
    obtain ⟨-, -, -, h4⟩ := hs.in_flight hp
    show storedByte (memWriteFrom s.rxBuf s.rxXferOff data) a = none
    rw [storedByte_memWriteFrom, if_neg (by omega)]
    exact hs.in_range a ha
  live := by
    intro i hi
    have hi' : i < s.rxCnt + data.length := hi
    show storedByte (memWriteFrom s.rxBuf s.rxXferOff data) ((s.rxRd + i) % s.cfg.cRx) ≠ none
    by_cases hlt : i < s.rxCnt
    · rw [hs.receive_live hp hn hlt]; exact hs.live i hlt
    · have := hs.receive_stored hp hn (i := i - s.rxCnt) (by omega)
      rw [show s.rxCnt + (i - s.rxCnt) = i by omega] at this
      rw [this]; simp

theorem RxRingInv.consume (hs : RxRingInv s) (h : 4 ≤ s.rxCnt) : RxRingInv s.consumeGroup where
  rd_lt := Nat.mod_lt _ (by have := s.cfg.cRx_ge; show 0 < s.cfg.cRx; omega)
  cnt_le := by have := hs.cnt_le; show s.rxCnt - 4 ≤ s.cfg.cRx; omega
  rd_aligned := by
    show (s.rxRd + 4) % s.cfg.cRx % 4 = 0
    have hr := hs.rd_aligned
    have hd : 4 ∣ s.cfg.cRx := Nat.dvd_of_mod_eq_zero s.cfg.bounds.2.2.2.2.2.1
    rw [Nat.mod_mod_of_dvd _ hd]
    omega
  in_flight := by
    intro hp
    obtain ⟨h1, h2, h3, h4⟩ := hs.in_flight hp
    rw [rxWr_consumeGroup h]
    refine ⟨h1, h2, Nat.le_trans h3 ?_, h4⟩
    show s.cfg.cRx - s.rxCnt ≤ s.cfg.cRx - (s.rxCnt - 4)
    omega
  canonical := hs.canonical
  in_range := hs.in_range
  live := by
    intro i hi
    have hi' : i < s.rxCnt - 4 := hi
    show storedByte s.rxBuf (((s.rxRd + 4) % s.cfg.cRx + i) % s.cfg.cRx) ≠ none
    rw [advance_index]
    exact hs.live _ (by omega)

/-! ### The rings' contents -/

theorem ringBytes_length (d : Direction) (cap : Nat) (m : Memory) (start n : Nat) :
    (ringBytes d cap m start n).length = n := by
  simp [ringBytes]

/-- Taking bytes from the front of a ring moves its start. -/
theorem ringBytes_drop (d : Direction) (cap : Nat) (m : Memory) (start n k : Nat) :
    ringBytes d cap m ((start + k) % cap) (n - k) = (ringBytes d cap m start n).drop k := by
  apply List.ext_getElem
  · simp [ringBytes]
  · intro i h1 h2
    simp only [ringBytes, List.getElem_map, List.getElem_range, List.getElem_drop, advance_index]

/-- Bytes stored after a ring's contents, which they leave alone, come at its back. -/
theorem ringBytes_append {d : Direction} {cap start n : Nat} {m m' : Memory} {vs : List Byte}
    (hkeep : ∀ i, i < n → storedByte m' ((start + i) % cap) = storedByte m ((start + i) % cap))
    (hnew : ∀ i v, vs[i]? = some v → storedByte m' ((start + (n + i)) % cap) = some v) :
    ringBytes d cap m' start (n + vs.length) = ringBytes d cap m start n ++ vs := by
  apply List.ext_getElem
  · simp [ringBytes]
  · intro i h1 h2
    simp only [ringBytes, List.getElem_map, List.getElem_range]
    by_cases hi : i < n
    · rw [List.getElem_append_left (by simpa using hi)]
      simp only [List.getElem_map, List.getElem_range]
      exact memRead_eq_of_storedByte (hkeep i hi)
    · have hl : i - n < vs.length := by simp [ringBytes] at h1; omega
      rw [List.getElem_append_right (by simpa using hi)]
      simp only [List.length_map, List.length_range]
      have := hnew (i - n) vs[i - n] (List.getElem?_eq_getElem hl)
      rw [show n + (i - n) = i by omega] at this
      exact memRead_of_storedByte this

/-! ### Arm attempts -/

/-- After an arm attempt while open the transmit pump is pending or has nothing to send. -/
theorem armTx_busy (ho : s.isOpen = true) : (armTx s).1.txState = .transferPending ∨ (armTx s).1.txCnt = 0 := by
  rcases armTx_cases s with h | h | h | h
  · rw [ho] at h; cases h.1
  · rw [h.2.2]; exact .inl h.2.1
  · rw [h.2.2.2]; exact .inr h.2.2.1
  · rw [h.2.2.2]; exact .inl rfl

/-- After an arm attempt while open the receive pump is pending or has no room. -/
theorem armRx_busy (ho : s.isOpen = true) : (armRx s).1.rxState = .transferPending ∨ (armRx s).1.rxFree = 0 := by
  rcases armRx_cases s with h | h | h | h
  · rw [ho] at h; cases h.1
  · rw [h.2.2]; exact .inl h.2.1
  · rw [h.2.2.2]; exact .inr h.2.2.1
  · rw [h.2.2.2]; exact .inl rfl

end Sys2Proof.Machine
end

