-- ==== Sys2Proof/Laws/PerInstr.lean ====
section
/-! SUPPORT. Statements made per instruction. EncodedLength: a well-formed instruction's serialisation has
the length that R74 gives its opcode and operands, which is how many bytes the host's placing of a row's
word takes; a packet's is four bytes (R75). -/

namespace Sys2Proof.Laws.EncodedLength

def Statement (i : Instr) : Prop :=
  i.wellFormed = true →
    (encode i).length = match i.format with
      | .op => requestLength (encode i)
      | .eventPacket => 4

/-- A message request's length: three bytes and the message (R74). -/
theorem message_length {opcode : Byte} (hop : opcode = 0x21#8 ∨ opcode = 0x40#8) {cable : Nat}
    {msg : List Byte} (h : fitsByte msg.length = true) :
    (messageBytes opcode cable msg).length = requestLength (messageBytes opcode cable msg) := by
  simp only [fitsByte, decide_eq_true_eq] at h
  rcases hop with rfl | rfl <;> cases msg <;>
    simp [messageBytes, requestLength, padTo] <;> simp at h <;> omega

theorem openDevice : Statement .openDevice :=
  fun _ => rfl

theorem closeDevice : Statement .closeDevice :=
  fun _ => rfl

theorem armTx : Statement .armTx :=
  fun _ => rfl

theorem armRx : Statement .armRx :=
  fun _ => rfl

theorem completeTx (status length : Nat) : Statement (.completeTx status length) :=
  fun _ => rfl

theorem completeRx (status length : Nat) (data : List Byte) : Statement (.completeRx status length data) := by
  intro h
  simp only [Instr.wellFormed, fitsU16, Bool.and_eq_true, decide_eq_true_eq, beq_iff_eq] at h
  simp [Instr.format, encode, requestLength, padTo, u16, u16Lo, u16Hi]
  omega

theorem pack (cable cin : Nat) (b1 b2 b3 : Byte) : Statement (.pack cable cin b1 b2 b3) :=
  fun _ => rfl

theorem encode (cable : Nat) (msg : List Byte) : Statement (.encode cable msg) := by
  intro h
  simp only [Instr.wellFormed, Bool.and_eq_true] at h
  exact message_length (.inl rfl) h.2

theorem decodePacket (p0 p1 p2 p3 : Byte) : Statement (.decodePacket p0 p1 p2 p3) :=
  fun _ => rfl

theorem runTask : Statement .runTask :=
  fun _ => rfl

theorem decodeStep : Statement .decodeStep :=
  fun _ => rfl

theorem send (cable : Nat) (msg : List Byte) : Statement (.send cable msg) := by
  intro h
  simp only [Instr.wellFormed, Bool.and_eq_true] at h
  exact message_length (.inr rfl) h.2

theorem noteOn (cable channel : Nat) (note velocity : Byte) : Statement (.noteOn cable channel note velocity) :=
  fun _ => rfl

theorem noteOff (cable channel : Nat) (note velocity : Byte) : Statement (.noteOff cable channel note velocity) :=
  fun _ => rfl

theorem controlChange (cable channel : Nat) (controller value : Byte) : Statement (.controlChange cable channel controller value) :=
  fun _ => rfl

theorem register (cable : Nat) (present : Bool) : Statement (.register cable present) :=
  fun _ => rfl

theorem cin0Misc (cable : Nibble) (b1 b2 b3 : Byte) : Statement (.cin0Misc cable b1 b2 b3) :=
  fun _ => rfl

theorem cin1CableEvent (cable : Nibble) (b1 b2 b3 : Byte) : Statement (.cin1CableEvent cable b1 b2 b3) :=
  fun _ => rfl

theorem cin2Syscom2b (cable : Nibble) (b1 b2 b3 : Byte) : Statement (.cin2Syscom2b cable b1 b2 b3) :=
  fun _ => rfl

theorem cin3Syscom3b (cable : Nibble) (b1 b2 b3 : Byte) : Statement (.cin3Syscom3b cable b1 b2 b3) :=
  fun _ => rfl

theorem cin4SysexStartCont (cable : Nibble) (b1 b2 b3 : Byte) : Statement (.cin4SysexStartCont cable b1 b2 b3) :=
  fun _ => rfl

theorem cin5SysexEnd1b (cable : Nibble) (b1 b2 b3 : Byte) : Statement (.cin5SysexEnd1b cable b1 b2 b3) :=
  fun _ => rfl

theorem cin6SysexEnd2b (cable : Nibble) (b1 b2 b3 : Byte) : Statement (.cin6SysexEnd2b cable b1 b2 b3) :=
  fun _ => rfl

theorem cin7SysexEnd3b (cable : Nibble) (b1 b2 b3 : Byte) : Statement (.cin7SysexEnd3b cable b1 b2 b3) :=
  fun _ => rfl

theorem cin8NoteOff (cable : Nibble) (b1 b2 b3 : Byte) : Statement (.cin8NoteOff cable b1 b2 b3) :=
  fun _ => rfl

theorem cin9NoteOn (cable : Nibble) (b1 b2 b3 : Byte) : Statement (.cin9NoteOn cable b1 b2 b3) :=
  fun _ => rfl

theorem cinAPolyPressure (cable : Nibble) (b1 b2 b3 : Byte) : Statement (.cinAPolyPressure cable b1 b2 b3) :=
  fun _ => rfl

theorem cinBControlChange (cable : Nibble) (b1 b2 b3 : Byte) : Statement (.cinBControlChange cable b1 b2 b3) :=
  fun _ => rfl

theorem cinCProgramChange (cable : Nibble) (b1 b2 b3 : Byte) : Statement (.cinCProgramChange cable b1 b2 b3) :=
  fun _ => rfl

theorem cinDChannelPressure (cable : Nibble) (b1 b2 b3 : Byte) : Statement (.cinDChannelPressure cable b1 b2 b3) :=
  fun _ => rfl

theorem cinEPitchBend (cable : Nibble) (b1 b2 b3 : Byte) : Statement (.cinEPitchBend cable b1 b2 b3) :=
  fun _ => rfl

theorem cinFSingleByte (cable : Nibble) (b1 b2 b3 : Byte) : Statement (.cinFSingleByte cable b1 b2 b3) :=
  fun _ => rfl

end Sys2Proof.Laws.EncodedLength
end

