-- ==== Sys2Proof/Tests/Slice0.lean ====
section
/-! SUPPORT. Tests. Expected results are the vectors of `95_test_vectors.md` (its section is named), the
tables of `30_encoding.md`, or worked by hand from the rule named. The last part holds, for every statement
of the obligations that has hypotheses, a concrete state and operands that meet them. -/

namespace Sys2Proof.Tests

open Sys2Proof.Machine

/-! ### The smoke test of WellFormed: one ill-formed term a check, and a well-formed term at its bound -/

theorem test_wf_completeTx_status : (Instr.completeTx 256 0).wellFormed = false := by decide
theorem test_wf_completeTx_length : (Instr.completeTx 0 65536).wellFormed = false := by decide
theorem test_wf_completeTx_bound : (Instr.completeTx 255 65535).wellFormed = true := by decide
theorem test_wf_completeRx_status : (Instr.completeRx 256 0 []).wellFormed = false := by decide
theorem test_wf_completeRx_data : (Instr.completeRx 0 2 [0x01#8]).wellFormed = false := by decide
theorem test_wf_completeRx_length (data : List Byte) :
    (Instr.completeRx 0 65536 data).wellFormed = false := by
  simp [Instr.wellFormed, fitsU16]
theorem test_wf_pack_cable : (Instr.pack 256 0 0x00#8 0x00#8 0x00#8).wellFormed = false := by decide
theorem test_wf_pack_cin : (Instr.pack 0 256 0x00#8 0x00#8 0x00#8).wellFormed = false := by decide
theorem test_wf_encode_cable : (Instr.encode 256 []).wellFormed = false := by decide
theorem test_wf_encode_message (msg : List Byte) (h : msg.length = 256) :
    (Instr.encode 0 msg).wellFormed = false := by
  simp [Instr.wellFormed, fitsByte, h]
theorem test_wf_send_cable : (Instr.send 256 []).wellFormed = false := by decide
theorem test_wf_send_message (msg : List Byte) (h : msg.length = 256) :
    (Instr.send 0 msg).wellFormed = false := by
  simp [Instr.wellFormed, fitsByte, h]
theorem test_wf_noteOn_cable : (Instr.noteOn 256 0 0x00#8 0x00#8).wellFormed = false := by decide
theorem test_wf_noteOn_channel : (Instr.noteOn 0 256 0x00#8 0x00#8).wellFormed = false := by decide
theorem test_wf_noteOff_cable : (Instr.noteOff 256 0 0x00#8 0x00#8).wellFormed = false := by decide
theorem test_wf_noteOff_channel : (Instr.noteOff 0 256 0x00#8 0x00#8).wellFormed = false := by decide
theorem test_wf_controlChange_cable : (Instr.controlChange 256 0 0x00#8 0x00#8).wellFormed = false := by decide
theorem test_wf_controlChange_channel : (Instr.controlChange 0 256 0x00#8 0x00#8).wellFormed = false := by decide
theorem test_wf_register_cable : (Instr.register 256 true).wellFormed = false := by decide
theorem test_wf_register_bound : (Instr.register 255 true).wellFormed = true := by decide

/-! ### Decoding: every constructor from its word, written out from R73, R74 and R75 -/

theorem test_decode_openDevice :
    decodeRequest [0b00000001#8] = .ok .openDevice := by decide
theorem test_decode_closeDevice :
    decodeRequest [0b00000010#8] = .ok .closeDevice := by decide
theorem test_decode_armTx :
    decodeRequest [0b00010000#8] = .ok .armTx := by decide
theorem test_decode_armRx :
    decodeRequest [0b00010001#8] = .ok .armRx := by decide
theorem test_decode_completeTx :
    decodeRequest [0b00010010#8, 0x05#8, 0x34#8, 0x12#8] = .ok (.completeTx 5 0x1234) := by decide
theorem test_decode_completeRx :
    decodeRequest [0b00010011#8, 0x01#8, 0x03#8, 0x00#8, 0xAA#8, 0xBB#8, 0xCC#8] = .ok (.completeRx 1 3 [0xAA#8, 0xBB#8, 0xCC#8]) := by decide
theorem test_decode_pack :
    decodeRequest [0b00100000#8, 0x10#8, 0x11#8, 0xF8#8, 0x01#8, 0x02#8] = .ok (.pack 16 17 0xF8#8 0x01#8 0x02#8) := by decide
theorem test_decode_encode :
    decodeRequest [0b00100001#8, 0x02#8, 0x02#8, 0xC0#8, 0x05#8] = .ok (.encode 2 [0xC0#8, 0x05#8]) := by decide
theorem test_decode_decodePacket :
    decodeRequest [0b00100010#8, 0x28#8, 0x80#8, 0x3C#8, 0x00#8] = .ok (.decodePacket 0x28#8 0x80#8 0x3C#8 0x00#8) := by decide
theorem test_decode_runTask :
    decodeRequest [0b00110000#8] = .ok .runTask := by decide
theorem test_decode_decodeStep :
    decodeRequest [0b00110001#8] = .ok .decodeStep := by decide
theorem test_decode_send :
    decodeRequest [0b01000000#8, 0x09#8, 0x01#8, 0xF8#8] = .ok (.send 9 [0xF8#8]) := by decide
theorem test_decode_noteOn :
    decodeRequest [0b01000001#8, 0x01#8, 0x02#8, 0x3C#8, 0x64#8] = .ok (.noteOn 1 2 0x3C#8 0x64#8) := by decide
theorem test_decode_noteOff :
    decodeRequest [0b01000010#8, 0x01#8, 0x02#8, 0x3C#8, 0x64#8] = .ok (.noteOff 1 2 0x3C#8 0x64#8) := by decide
theorem test_decode_controlChange :
    decodeRequest [0b01000011#8, 0x01#8, 0x02#8, 0x07#8, 0x64#8] = .ok (.controlChange 1 2 0x07#8 0x64#8) := by decide
theorem test_decode_register :
    decodeRequest [0b01000100#8, 0x02#8, 0x80#8] = .ok (.register 2 true) := by decide
theorem test_decode_cin0Misc :
    decode .eventPacket [0b00010000#8, 0x91#8, 0x22#8, 0xF3#8] = .ok (.cin0Misc 0x1#4 0x91#8 0x22#8 0xF3#8, []) := by
  decide
theorem test_decode_cin1CableEvent :
    decode .eventPacket [0b11100001#8, 0x91#8, 0x22#8, 0xF3#8] = .ok (.cin1CableEvent 0xE#4 0x91#8 0x22#8 0xF3#8, []) := by
  decide
theorem test_decode_cin2Syscom2b :
    decode .eventPacket [0b00100010#8, 0x91#8, 0x22#8, 0xF3#8] = .ok (.cin2Syscom2b 0x2#4 0x91#8 0x22#8 0xF3#8, []) := by
  decide
theorem test_decode_cin3Syscom3b :
    decode .eventPacket [0b11010011#8, 0x91#8, 0x22#8, 0xF3#8] = .ok (.cin3Syscom3b 0xD#4 0x91#8 0x22#8 0xF3#8, []) := by
  decide
theorem test_decode_cin4SysexStartCont :
    decode .eventPacket [0b00110100#8, 0x91#8, 0x22#8, 0xF3#8] = .ok (.cin4SysexStartCont 0x3#4 0x91#8 0x22#8 0xF3#8, []) := by
  decide
theorem test_decode_cin5SysexEnd1b :
    decode .eventPacket [0b11000101#8, 0x91#8, 0x22#8, 0xF3#8] = .ok (.cin5SysexEnd1b 0xC#4 0x91#8 0x22#8 0xF3#8, []) := by
  decide
theorem test_decode_cin6SysexEnd2b :
    decode .eventPacket [0b01000110#8, 0x91#8, 0x22#8, 0xF3#8] = .ok (.cin6SysexEnd2b 0x4#4 0x91#8 0x22#8 0xF3#8, []) := by
  decide
theorem test_decode_cin7SysexEnd3b :
    decode .eventPacket [0b10110111#8, 0x91#8, 0x22#8, 0xF3#8] = .ok (.cin7SysexEnd3b 0xB#4 0x91#8 0x22#8 0xF3#8, []) := by
  decide
theorem test_decode_cin8NoteOff :
    decode .eventPacket [0b01011000#8, 0x91#8, 0x22#8, 0xF3#8] = .ok (.cin8NoteOff 0x5#4 0x91#8 0x22#8 0xF3#8, []) := by
  decide
theorem test_decode_cin9NoteOn :
    decode .eventPacket [0b10101001#8, 0x91#8, 0x22#8, 0xF3#8] = .ok (.cin9NoteOn 0xA#4 0x91#8 0x22#8 0xF3#8, []) := by
  decide
theorem test_decode_cinAPolyPressure :
    decode .eventPacket [0b01101010#8, 0x91#8, 0x22#8, 0xF3#8] = .ok (.cinAPolyPressure 0x6#4 0x91#8 0x22#8 0xF3#8, []) := by
  decide
theorem test_decode_cinBControlChange :
    decode .eventPacket [0b10011011#8, 0x91#8, 0x22#8, 0xF3#8] = .ok (.cinBControlChange 0x9#4 0x91#8 0x22#8 0xF3#8, []) := by
  decide
theorem test_decode_cinCProgramChange :
    decode .eventPacket [0b01111100#8, 0x91#8, 0x22#8, 0xF3#8] = .ok (.cinCProgramChange 0x7#4 0x91#8 0x22#8 0xF3#8, []) := by
  decide
theorem test_decode_cinDChannelPressure :
    decode .eventPacket [0b10001101#8, 0x91#8, 0x22#8, 0xF3#8] = .ok (.cinDChannelPressure 0x8#4 0x91#8 0x22#8 0xF3#8, []) := by
  decide
theorem test_decode_cinEPitchBend :
    decode .eventPacket [0b11111110#8, 0x91#8, 0x22#8, 0xF3#8] = .ok (.cinEPitchBend 0xF#4 0x91#8 0x22#8 0xF3#8, []) := by
  decide
theorem test_decode_cinFSingleByte :
    decode .eventPacket [0b00001111#8, 0x91#8, 0x22#8, 0xF3#8] = .ok (.cinFSingleByte 0x0#4 0x91#8 0x22#8 0xF3#8, []) := by
  decide

/-- R74: 0x00 is false, any other value true. -/
theorem test_decode_register_false : decodeRequest [0x44#8, 0x02#8, 0x00#8] = .ok (.register 2 false) := by decide
/-- R96: an unassigned opcode byte. -/
theorem test_decode_unassigned : decodeRequest [0x03#8] = .error (.unassignedOpcode 0x03#8) := by decide
/-- R96 and L2.7: the data list is shorter than `length`. -/
theorem test_decode_truncated :
    decodeRequest [0x13#8, 0x00#8, 0x04#8, 0x00#8, 0x28#8, 0x80#8] = .error (.truncated 0x13#8) := by decide
theorem test_decode_empty : decodeRequest [] = .error .emptyRequest := by decide
/-- Log entry 11. -/
theorem test_decode_trailing : decodeRequest [0x30#8, 0x31#8] = .error (.trailingBytes 1) := by decide
/-- R99: a packet is four bytes. -/
theorem test_decode_short_packet :
    decode .eventPacket [0x28#8, 0x80#8, 0x3C#8] = .error .shortPacket := by decide

/-- R55 and L2.3: the word view of 28 80 3C 00. -/
theorem test_table_word_packet :
    decodeTableWord 32 0x003C8028 = some (.cin8NoteOff 0x2#4 0x80#8 0x3C#8 0x00#8) := by decide
/-- R74: the operand bytes of a row's word follow its opcode byte. -/
theorem test_table_word_op : decodeTableWord 40 0x643C000141 = some (.noteOn 1 0 0x3C#8 0x64#8) := by decide
/-- Log entry 8: an opcode byte alone, its operand bytes zero. -/
theorem test_table_word_padded : decodeTableWord 8 0x13 = some (.completeRx 0 0 []) := by decide

/-! ### Encoding, from R73 to R75 -/

theorem test_encode_completeRx :
    encode (.completeRx 0 4 [0x28#8, 0x80#8, 0x3C#8, 0x00#8]) =
      [0x13#8, 0x00#8, 0x04#8, 0x00#8, 0x28#8, 0x80#8, 0x3C#8, 0x00#8] := by decide
theorem test_encode_send :
    encode (.send 1 [0x90#8, 0x3C#8, 0x64#8]) = [0x40#8, 0x01#8, 0x03#8, 0x90#8, 0x3C#8, 0x64#8] := by decide
theorem test_encode_packet :
    encode (.cin9NoteOn 0x1#4 0x90#8 0x3C#8 0x64#8) = [0x19#8, 0x90#8, 0x3C#8, 0x64#8] := by decide

/-! ### States the tests start from -/

/-- What an operation leaves, where it completes. -/
def nextOf : StepOutcome → Option State
  | .next t => some t
  | .fault _ => none
  | .refused _ => none

/-- What an operation returns, where it completes. -/
def replyOf (o : StepOutcome) : Option Reply := (nextOf o).bind State.reply

/-- The start of L1.1 and L1.2: the device open, the receive pump armed with the whole ring. -/
def opened : State :=
  { State.reset with isOpen := true, rxState := .transferPending, rxXferLen := 64 }

/-- A packet in flight on the transmit side (the state after L1.1). -/
def sending : State :=
  { opened with
    txBuf := [(0, 0x19#8), (1, 0x90#8), (2, 0x3C#8), (3, 0x64#8)]
    txCnt := 4
    txState := .transferPending
    txXferLen := 4
    trace := [.submitTx 0 4 [0x19#8, 0x90#8, 0x3C#8, 0x64#8]] }

/-- The same bytes queued, the transmit pump Idle (the start of L1.5). -/
def queued : State := { sending with txState := .idle, txXferLen := 0, trace := [] }

/-- The transmit ring full (L1.3, after its sixteenth send), no byte of it read by the tests. -/
def txFull : State := { opened with txCnt := 64 }

/-- A task running over one packet (row 3 of L1.2). -/
def decoding : State :=
  { opened with
    rxBuf := [(0, 0x28#8), (1, 0x80#8), (2, 0x3C#8), (3, 0x00#8)]
    rxCnt := 4
    rxXferOff := 4
    rxXferLen := 60
    decodeActive := true
    handlerMask := 0x0004#16 }

/-- A faulted instance. -/
def faulted : State := { opened with fault := some .openWhileOpen }

/-! ### One step an operation -/

/-- L2.4: OPEN of a new instance arms the receive pump only. -/
theorem test_open :
    (nextOf (exec .openDevice State.reset)).map (fun t =>
      (t.isOpen, t.txState, t.rxState, t.rxXferLen, t.trace)) =
    some (true, .idle, .transferPending, 64, [.submitRx 0 64]) := by decide

/-- L2.4: OPEN while open faults. -/
theorem test_open_fault :
    (nextOf (exec .openDevice opened)).map (fun t => (t.fault, t.isOpen, t.trace)) =
      some (some .openWhileOpen, true, []) := by decide

/-- L2.4: CLOSE cancels nothing. -/
theorem test_close :
    (nextOf (exec .closeDevice sending)).map (fun t => (t.isOpen, t.txState, t.rxState, t.txCnt)) =
      some (false, .transferPending, .transferPending, 4) := by decide

/-- L1.5: the first of two arm attempts submits. -/
theorem test_arm_tx :
    (nextOf (exec .armTx queued)).map (fun t => (t.txState, t.txXferOff, t.txXferLen, t.trace, t.reply)) =
      some (.transferPending, 0, 4, [.submitTx 0 4 [0x19#8, 0x90#8, 0x3C#8, 0x64#8]],
        some (.code .armed)) := by decide

/-- L2.5: a region stops at the end of storage. -/
theorem test_arm_tx_end_of_storage :
    (nextOf (exec .armTx { opened with
      txRd := 60, txCnt := 8
      txBuf := [(0, 0x00#8), (1, 0x01#8), (2, 0x02#8), (3, 0x03#8), (60, 0x3C#8), (61, 0x3D#8), (62, 0x3E#8),
        (63, 0x3F#8)] })).map State.trace =
      some [.submitTx 60 4 [0x3C#8, 0x3D#8, 0x3E#8, 0x3F#8]] := by decide

/-- L2.5: free space up to the end of storage. -/
theorem test_arm_rx :
    (nextOf (exec .armRx { opened with rxState := .idle, rxCnt := 62 })).map (fun t => (t.trace, t.reply)) =
      some ([.submitRx 62 2], some (.code .armed)) := by decide

/-- L2.5: the write cursor has wrapped to 0. -/
theorem test_arm_rx_wrapped :
    (nextOf (exec .armRx { opened with rxState := .idle, rxRd := 8, rxCnt := 56 })).map State.trace =
      some [.submitRx 0 8] := by decide

/-- P1: the advance, then the Idle pump of an empty ring. -/
theorem test_complete_tx :
    (nextOf (exec (.completeTx 0 4) sending)).map (fun t => (t.txRd, t.txCnt, t.txState, t.reply)) =
      some (4, 0, .idle, some (.code .ok)) := by decide

/-- R115: a failed transfer advances nothing and is submitted again, its length ignored. -/
theorem test_complete_tx_failed :
    (nextOf (exec (.completeTx 5 9) { sending with trace := [] })).map (fun t =>
      (t.txRd, t.txCnt, t.trace)) =
      some (0, 4, [.submitTx 0 4 [0x19#8, 0x90#8, 0x3C#8, 0x64#8]]) := by decide

/-- L1.2, its first row. -/
theorem test_complete_rx :
    (nextOf (exec (.completeRx 0 4 [0x28#8, 0x80#8, 0x3C#8, 0x00#8]) opened)).map (fun t =>
      (t.rxCnt, t.taskQ, t.rxBuf, t.trace)) =
      some (4, 1, [(0, 0x28#8), (1, 0x80#8), (2, 0x3C#8), (3, 0x00#8)], [.submitRx 4 60]) := by decide

/-- L2.7: a failed receive completion writes nothing and enqueues no task. -/
theorem test_complete_rx_failed :
    (nextOf (exec (.completeRx 1 3 [0x01#8, 0x02#8, 0x03#8]) opened)).map (fun t =>
      (t.rxCnt, t.taskQ, t.rxBuf, t.trace)) =
      some (0, 0, [], [.submitRx 0 64]) := by decide

/-- L1.4: cable 15 and CIN 15 pack into 0xFF. -/
theorem test_pack :
    replyOf (exec (.pack 15 15 0xF8#8 0x00#8 0x00#8) State.reset) =
      some (.packet ⟨0xFF#8, 0xF8#8, 0x00#8, 0x00#8⟩) := by decide

/-- L2.2: the cable is checked first. -/
theorem test_pack_rejects :
    replyOf (exec (.pack 16 16 0x00#8 0x00#8 0x00#8) State.reset) = some (.code .rejectCableRange) := by decide

/-- L2.1: a Program Change is padded. -/
theorem test_encode :
    replyOf (exec (.encode 2 [0xC0#8, 0x05#8]) State.reset) =
      some (.packet ⟨0x2C#8, 0xC0#8, 0x05#8, 0x00#8⟩) := by decide

/-- L2.1: a System Exclusive end of two bytes. -/
theorem test_encode_sysex_end :
    replyOf (exec (.encode 0 [0xF0#8, 0xF7#8]) State.reset) =
      some (.packet ⟨0x06#8, 0xF0#8, 0xF7#8, 0x00#8⟩) := by decide

/-- L2.3. -/
theorem test_decode_packet :
    replyOf (exec (.decodePacket 0x28#8 0x80#8 0x3C#8 0x00#8) State.reset) =
      some (.unpacked ⟨0x2#4, 0x8#4, 0x80#8, 0x3C#8, 0x00#8⟩) := by decide

/-- L2.8: one task starts. -/
theorem test_run_task :
    (nextOf (exec .runTask { opened with taskQ := 2 })).map (fun t => (t.taskQ, t.decodeActive, t.reply)) =
      some (1, true, some (.code .ok)) := by decide

/-- L1.2, its third row. -/
theorem test_decode_step :
    (nextOf (exec .decodeStep decoding)).map (fun t => (t.rxRd, t.rxCnt, t.trace, t.reply)) =
      some (4, 0, [.dispatch 0x2#4 0x8#4 0x80#8 0x3C#8 0x00#8], some (.code .dispatched)) := by decide

/-- L2.8: three bytes are left unconsumed, and an Idle receive pump is armed after them. -/
theorem test_decode_step_partial :
    (nextOf (exec .decodeStep { decoding with rxCnt := 3, rxState := .idle })).map (fun t =>
      (t.rxRd, t.rxCnt, t.decodeActive, t.trace, t.reply)) =
      some (0, 3, false, [.submitRx 3 61], some (.code .taskDone)) := by decide

/-- L2.9: cable 9 of a pending pump: stored at the write cursor, no submit. -/
theorem test_send :
    (nextOf (exec (.send 9 [0xF8#8]) { sending with trace := [] })).map (fun t =>
      (t.txCnt, storedByte t.txBuf 4, storedByte t.txBuf 5, t.trace)) =
      some (8, some 0x9F#8, some 0xF8#8, []) := by decide

/-- L2.9 and L1.3: fewer than four bytes free. -/
theorem test_send_full :
    replyOf (exec (.send 0 [0xF8#8]) { opened with txCnt := 61 }) = some (.code .bufferFull) := by decide

/-- L1.1. -/
theorem test_note_on :
    (nextOf (exec (.noteOn 1 0 0x3C#8 0x64#8) opened)).map (fun t =>
      (t.txBuf, t.txCnt, t.txState, t.trace)) =
      some ([(0, 0x19#8), (1, 0x90#8), (2, 0x3C#8), (3, 0x64#8)], 4, .transferPending,
        [.submitTx 0 4 [0x19#8, 0x90#8, 0x3C#8, 0x64#8]]) := by decide

/-- L2.9: the channel is checked before everything else. -/
theorem test_note_on_channel :
    replyOf (exec (.noteOn 16 16 0x3C#8 0x64#8) State.reset) = some (.code .rejectChannelRange) := by decide

/-- L2.9. -/
theorem test_note_off :
    (nextOf (exec (.noteOff 2 0 0x3C#8 0x00#8) opened)).map State.trace =
      some [.submitTx 0 4 [0x28#8, 0x80#8, 0x3C#8, 0x00#8]] := by decide

/-- L2.9. -/
theorem test_control_change :
    (nextOf (exec (.controlChange 0 15 0x07#8 0x64#8) opened)).map State.trace =
      some [.submitTx 0 4 [0x0B#8, 0xBF#8, 0x07#8, 0x64#8]] := by decide

/-- L2.9: one bit is cleared. -/
theorem test_register :
    (nextOf (exec (.register 2 false) { State.reset with handlerMask := 0x0005#16 })).map State.handlerMask =
      some 0x0001#16 := by decide

/-- L2.9: a cable at N_RX is refused. -/
theorem test_register_rejects :
    replyOf (exec (.register 3 true) State.reset) = some (.code .rejectCableRange) := by decide

/-- R175, R177: a packet of a registered cable is delivered, one of cable 15 (at or above N_RX) dropped. -/
theorem test_packet_delivered :
    (nextOf (exec (.cin1CableEvent 0x2#4 0xAA#8 0xBB#8 0xCC#8) decoding)).map (fun t => (t.trace, t.reply)) =
      some ([.dispatch 0x2#4 0x1#4 0xAA#8 0xBB#8 0xCC#8], some (.code .dispatched)) := by decide
theorem test_packet_dropped :
    (nextOf (exec (.cinFSingleByte 0xF#4 0xF8#8 0x00#8 0x00#8) decoding)).map (fun t => (t.trace, t.reply)) =
      some ([], some (.code .dropped)) := by decide

/-- L2.7: the contract of the stack, and a completion whose data is not its length. -/
theorem test_complete_rx_overrun :
    (nextOf (exec (.completeRx 0 5 [0x01#8, 0x02#8, 0x03#8, 0x04#8, 0x05#8])
      { opened with rxXferOff := 60, rxXferLen := 4, rxCnt := 60 })).map (fun t => (t.fault, t.rxCnt)) =
      some (some (.lengthOverrun .rx 5 4), 60) := by decide

/-! ### Steps -/

/-- The first operation of P1, issued by the lifecycle agent. -/
theorem test_step_open :
    (nextOf (step (State.reset.withProgram [0x01#8, 0x30#8]))).map (fun t => (t.isOpen, t.requests)) =
      some (true, [⟨.scheduler, [0x30#8]⟩]) := by decide

/-- R225: a codec operation of an agent other than the application has no step (log entry 10). -/
theorem test_step_wrong_agent :
    step (State.reset.withRequests [⟨.scheduler, [0x22#8, 0x28#8, 0x80#8, 0x3C#8, 0x00#8]⟩]) =
      .refused (.wrongAgent .scheduler) := by rfl

/-- R140: the application's has one, closed as the device is. -/
theorem test_step_codec_closed :
    (nextOf (step (State.reset.withRequests [⟨.application, [0x22#8, 0x28#8, 0x80#8, 0x3C#8, 0x00#8]⟩]))).map
      State.reply = some (some (.unpacked ⟨0x2#4, 0x8#4, 0x80#8, 0x3C#8, 0x00#8⟩)) := by decide

/-- The word of a packet row runs as the head of the receive ring (log entry 8). -/
theorem test_step_packet :
    (nextOf (step (State.reset.withFetchWord 32 0x003C8028))).map (fun t => (t.rxRd, t.rxCnt, t.reply)) =
      some (4, 0, some (.code .dropped)) := by decide

/-- The word of an operation row runs as the first request. -/
theorem test_step_op :
    (nextOf (step (State.reset.withFetchWord 24 0x010244))).map (fun t => (t.handlerMask, t.reply)) =
      some (0x0004#16, some (.code .ok)) := by decide

/-! ### States that meet the invariants -/

theorem opened_inv : Inv opened where
  tx := {
    rd_lt := by decide
    cnt_le := by decide
    wr_aligned := by decide
    in_flight := by decide
    canonical := by decide
    in_range := fun _ _ => rfl
    live := fun i h => absurd h (Nat.not_lt_zero i) }
  rx := {
    rd_lt := by decide
    cnt_le := by decide
    rd_aligned := by decide
    in_flight := by decide
    canonical := by decide
    in_range := fun _ _ => rfl
    live := fun i h => absurd h (Nat.not_lt_zero i) }
  mask := fun _ _ => BitVec.getLsbD_zero

theorem sending_inv : Inv sending where
  tx := {
    rd_lt := by decide
    cnt_le := by decide
    wr_aligned := by decide
    in_flight := by decide
    canonical := by decide
    in_range := by
      intro a h
      have h' : 64 ≤ a := h
      simp only [sending, storedByte]
      rw [if_neg (by omega), if_neg (by omega), if_neg (by omega), if_neg (by omega)]
    live := by decide }
  rx := opened_inv.rx.congr rfl rfl rfl rfl rfl rfl rfl
  mask := opened_inv.mask

theorem decoding_inv : Inv decoding where
  tx := opened_inv.tx.congr rfl rfl rfl rfl rfl rfl rfl
  rx := {
    rd_lt := by decide
    cnt_le := by decide
    rd_aligned := by decide
    in_flight := by decide
    canonical := by decide
    in_range := by
      intro a h
      have h' : 64 ≤ a := h
      simp only [decoding, storedByte]
      rw [if_neg (by omega), if_neg (by omega), if_neg (by omega), if_neg (by omega)]
    live := by decide }
  mask := by
    intro cable h
    have h' : 3 ≤ cable := h
    by_cases hc : cable < 16
    · have key : ∀ c : Fin 16, 3 ≤ c.val → (0x0004#16).getLsbD c.val = false := by decide
      exact key ⟨cable, hc⟩ h'
    · exact BitVec.getLsbD_of_ge _ _ (by omega)

/-! ### The hypotheses of the statements are met -/

/-- DecodeEncodeRoundTrip. -/
theorem test_witness_round_trip :
    (Instr.completeRx 255 2 [0x01#8, 0x02#8]).wellFormed = true ∧ (Instr.register 255 false).wellFormed = true := by decide
/-- DecodedWordHasOneMeaning. -/
theorem test_witness_one_meaning :
    decode .op [0x40#8, 0x09#8, 0x01#8, 0xF8#8, 0x30#8] = .ok (.send 9 [0xF8#8], [0x30#8]) ∧
      (∀ cable present, Instr.send 9 [0xF8#8] ≠ .register cable present) ∧
      decode .op [0x44#8, 0x02#8, 0xFF#8, 0x30#8] = .ok (.register 2 true, [0x30#8]) ∧
      decode .op [0x44#8, 0x02#8, 0x00#8, 0x30#8] = .ok (.register 2 false, [0x30#8]) :=
  ⟨by decide, (by intro cable present h; cases h), by decide, by decide⟩
/-- InvalidRequestsHaveNoStep. -/
theorem test_witness_invalid_requests :
    (0x00#8).toNat ∉ [0x01, 0x02, 0x10, 0x11, 0x12, 0x13, 0x20, 0x21, 0x22, 0x30, 0x31, 0x40, 0x41, 0x42, 0x43, 0x44] ∧
      (0x45#8).toNat ∉ [0x01, 0x02, 0x10, 0x11, 0x12, 0x13, 0x20, 0x21, 0x22, 0x30, 0x31, 0x40, 0x41, 0x42, 0x43, 0x44] ∧
      (Instr.completeRx 0 1 [0x01#8]).wellFormed = true ∧ (Instr.completeRx 0 1 [0x01#8]).format = .op ∧
      4 < (encode (.completeRx 0 1 [0x01#8])).length ∧
      (opened.withRequests [⟨.lifecycle, [0x03#8]⟩]).fault = none ∧
      decodeRequest [0x03#8] = .error (.unassignedOpcode 0x03#8) ∧
      opened.fault = none ∧ ([] : List Byte).length ≠ 1 ∧ [0x01#8].length ≠ 0 := by decide
/-- PlacedWordRuns. -/
theorem test_witness_placed_word :
    State.reset.fault = none ∧
      decodeTableWord 8 0x30 = some .runTask ∧ Instr.runTask.format = .op ∧
      decodeTableWord 32 0x003C8028 = some (.cin8NoteOff 0x2#4 0x80#8 0x3C#8 0x00#8) ∧
      (Instr.cin8NoteOff 0x2#4 0x80#8 0x3C#8 0x00#8).format = .eventPacket := by decide
/-- PackUnpackRoundTrip. -/
theorem test_witness_pack_unpack :
    Config.vectors.strategy = .shared ∧ opened.cfg = Config.vectors ∧ opened.fault = none ∧
      messageOf [0xC0#8, 0x05#8] = some (.two 0xC0#8 0x05#8) := by decide
/-- CinOfFollowsFirstByte. -/
theorem test_witness_cin_of :
    (messageStatus (.one 0x7F#8)).toNat = 0x7F ∧
      (messageStatus (.two 0xF0#8 0xF7#8)).toNat = 0xF0 ∧
      (messageStatus (.one 0x80#8)).toNat = 0x80 ∧
      (messageStatus (.three 0xEF#8 0x00#8 0x00#8)).toNat = 0xEF ∧
      (messageStatus (.one 0xF1#8)).toNat = 0xF1 ∧
      (messageStatus (.one 0xF3#8)).toNat = 0xF3 ∧
      (messageStatus (.one 0xF2#8)).toNat = 0xF2 ∧
      (messageStatus (.one 0xF4#8)).toNat = 0xF4 ∧
      (messageStatus (.one 0xF5#8)).toNat = 0xF5 ∧
      (messageStatus (.one 0xF6#8)).toNat = 0xF6 ∧
      (messageStatus (.two 0xF7#8 0x01#8)).toNat = 0xF7 ∧
      0xF8 ≤ (messageStatus (.one 0xF8#8)).toNat ∧
      0xF8 ≤ (messageStatus (.one 0xFF#8)).toNat := by decide
/-- PackReturnsPacket. -/
theorem test_witness_pack_returns :
    opened.fault = none ∧ 15 < 16 := by decide
/-- EncodeReturnsPacket. -/
theorem test_witness_encode_returns :
    opened.fault = none ∧ 15 < 16 ∧ messageOf [0xFF#8] = some (.one 0xFF#8) ∧
      messageOf [0xF7#8, 0xF7#8] = some (.two 0xF7#8 0xF7#8) ∧
      messageOf [0x90#8, 0x3C#8, 0x64#8] = some (.three 0x90#8 0x3C#8 0x64#8) := by decide
/-- DecodePacketReturnsTuple. -/
theorem test_witness_decode_packet_returns :
    opened.fault = none := by decide
/-- PackReturnsPacket and EncodeReturnsPacket (the refusals). -/
theorem test_witness_codec_rejections :
    opened.fault = none ∧ 16 ≤ 16 ∧ 15 < 16 ∧ ([] : List Byte).length < 1 ∧
      3 < [0x01#8, 0x02#8, 0x03#8, 0x04#8].length := by decide
/-- CodecOpsArePure. -/
theorem test_witness_codec_pure :
    opened.cfg = Config.vectors ∧ opened.fault = none ∧
      (∃ p0 p1 p2 p3, Instr.decodePacket 0x28#8 0x80#8 0x3C#8 0x00#8 = .decodePacket p0 p1 p2 p3) ∧
      decodeRequest [0x22#8, 0x28#8, 0x80#8, 0x3C#8, 0x00#8] = .ok (.decodePacket 0x28#8 0x80#8 0x3C#8 0x00#8) :=
  ⟨rfl, rfl, ⟨_, _, _, _, rfl⟩, by decide⟩
/-- OpenRestartsAndArmsReceive. -/
theorem test_witness_open_restarts :
    State.reset.fault = none ∧ State.reset.isOpen = false ∧ State.reset.txState = .idle ∧
      State.reset.rxState = .idle := by decide
/-- OpenRestartsAndArmsReceive (the faults). -/
theorem test_witness_open_faults :
    opened.fault = none ∧ opened.isOpen = true ∧
      (opened.setOpen false).fault = none ∧ (opened.setOpen false).isOpen = false ∧
      (opened.setOpen false).rxState = .transferPending := by decide
/-- CloseKeepsTransfersInFlight. -/
theorem test_witness_close :
    opened.fault = none := by decide
/-- ArmTxSubmitsRegion. -/
theorem test_witness_arm_tx :
    queued.fault = none ∧ queued.isOpen = true ∧ queued.txState = .idle ∧ queued.txCnt ≠ 0 ∧
      State.reset.isOpen = false ∧ sending.isOpen = true ∧ sending.txState = .transferPending ∧
      opened.isOpen = true ∧ opened.txState = .idle ∧ opened.txCnt = 0 := by decide
/-- ArmRxSubmitsRegion. -/
theorem test_witness_arm_rx :
    opened.rxToIdle.fault = none ∧ opened.rxToIdle.isOpen = true ∧ opened.rxToIdle.rxState = .idle ∧
      opened.rxToIdle.cfg.cRx - opened.rxToIdle.rxCnt ≠ 0 ∧ State.reset.isOpen = false ∧
      opened.isOpen = true ∧ opened.rxState = .transferPending ∧
      ({ opened.rxToIdle with rxCnt := 64 } : State).cfg.cRx - 64 = 0 := by decide
/-- RearmIsIdempotent (transmit, the attempt while open). -/
theorem test_witness_rearm_tx :
    ∃ t u, exec .armTx queued = .next t ∧ t.reply = some (.code .armed) ∧
      execAll [.send 0 [0xF8#8], .runTask] t = .next u ∧ u.fault = none ∧ u.isOpen = true ∧
      ∀ i ∈ [Instr.send 0 [0xF8#8], .runTask], ∀ status length, i ≠ .completeTx status length :=
  ⟨_, _, rfl, rfl, rfl, rfl, rfl, by simp⟩
/-- RearmIsIdempotent (transmit, the attempt after a CLOSE). -/
theorem test_witness_rearm_tx_closed :
    ∃ t u, exec .armTx queued = .next t ∧ t.reply = some (.code .armed) ∧
      execAll [.closeDevice] t = .next u ∧ u.fault = none ∧ u.isOpen = false ∧
      ∀ i ∈ [Instr.closeDevice], ∀ status length, i ≠ .completeTx status length :=
  ⟨_, _, rfl, rfl, rfl, rfl, rfl, by simp⟩
/-- RearmIsIdempotent (receive). -/
theorem test_witness_rearm_rx :
    ∃ t u, exec .armRx opened.rxToIdle = .next t ∧ t.reply = some (.code .armed) ∧
      execAll [.armRx, .closeDevice] t = .next u ∧ u.fault = none ∧
      ∀ i ∈ [Instr.armRx, .closeDevice], ∀ status length data, i ≠ .completeRx status length data :=
  ⟨_, _, rfl, rfl, rfl, rfl, by simp⟩
/-- CompletionContractFaults. -/
theorem test_witness_contract_faults :
    queued.fault = none ∧ queued.txState = .idle ∧ State.reset.rxState = .idle ∧
      sending.fault = none ∧ sending.txState = .transferPending ∧ sending.isOpen = true ∧ sending.txXferLen < 5 ∧
      opened.rxState = .transferPending ∧ opened.rxXferLen < (List.replicate 65 0x00#8).length := by decide
/-- TransmitSuccessAdvancesThenRearms. -/
theorem test_witness_transmit_success :
    sending.fault = none ∧ sending.isOpen = true ∧ sending.txState = .transferPending ∧
      0 ≤ sending.txXferLen ∧ 4 ≤ sending.txXferLen := by decide
/-- TransmitFailureResubmits, OnlyZeroStatusMatters. -/
theorem test_witness_transmit_failure :
    sending.fault = none ∧ sending.isOpen = true ∧ sending.txState = .transferPending ∧
      TxRingInv sending ∧ 1 ≠ 0 :=
  ⟨rfl, rfl, rfl, sending_inv.tx, by decide⟩
/-- ReceiveSuccessStoresThenRearms. -/
theorem test_witness_receive_success :
    opened.fault = none ∧ opened.isOpen = true ∧ opened.rxState = .transferPending ∧
      RxRingInv opened ∧ (List.replicate 64 0x00#8).length ≤ opened.rxXferLen :=
  ⟨rfl, rfl, rfl, opened_inv.rx, by decide⟩
/-- ReceiveFailureRearms, OnlyZeroStatusMatters. -/
theorem test_witness_receive_failure :
    opened.fault = none ∧ opened.isOpen = true ∧ opened.rxState = .transferPending ∧
      RxRingInv opened ∧ 255 ≠ 0 :=
  ⟨rfl, rfl, rfl, opened_inv.rx, by decide⟩
/-- CompletionAfterCloseOnlyIdles. -/
theorem test_witness_completion_after_close :
    (sending.setOpen false).fault = none ∧ (sending.setOpen false).isOpen = false ∧
      (sending.setOpen false).txState = .transferPending ∧ (sending.setOpen false).rxState = .transferPending := by decide
/-- CursorsFollowConfirmedBytes. -/
theorem test_witness_cursors :
    (∃ t, exec (.completeTx 0 4) sending = .next t ∧ t.txRd ≠ sending.txRd) ∧
      ∃ t, exec (.completeRx 0 1 [0x28#8]) opened = .next t ∧ opened.rxCnt < t.rxCnt :=
  ⟨⟨_, rfl, by decide⟩, _, rfl, by decide⟩
/-- RunTaskStartsOneTask. -/
theorem test_witness_run_task :
    ({ opened with taskQ := 1 } : State).decodeActive = false ∧ ({ opened with taskQ := 1 } : State).taskQ ≠ 0 ∧
      decoding.decodeActive = true ∧ opened.decodeActive = false ∧ opened.taskQ = 0 ∧ opened.fault = none := by decide
/-- DecodeStepWithoutGroupEndsTask. -/
theorem test_witness_decode_step_ends :
    opened.fault = none ∧ opened.decodeActive = false ∧
      (decoding.setOpen false).decodeActive = true ∧ (decoding.setOpen false).isOpen = false ∧
      ({ decoding with rxCnt := 3 } : State).decodeActive = true ∧ ({ decoding with rxCnt := 3 } : State).rxCnt < 4 := by decide
/-- DecodeStepConsumesGroup, DecodeStepRunsHeadPacket, PacketsAreDeliveredOrDropped. -/
theorem test_witness_decode_step_consumes :
    decoding.fault = none ∧ decoding.decodeActive = true ∧ decoding.isOpen = true ∧ 4 ≤ decoding.rxCnt ∧
      RxRingInv decoding ∧ decoding.cfg.strategy = .shared :=
  ⟨rfl, rfl, rfl, by decide, decoding_inv.rx, rfl⟩
/-- PartialGroupIsLeftUnconsumed. -/
theorem test_witness_partial_group :
    decoding.fault = none ∧ decoding.isOpen = true ∧ decoding.decodeActive = true ∧ RxRingInv decoding ∧
      decoding.rxCnt = 4 * 1 + 0 ∧ 0 < 4 ∧
      decoding.dispatchable (rxCableOf decoding.cfg (unpack (groupAt decoding 0)).nibble) = true :=
  ⟨rfl, rfl, rfl, decoding_inv.rx, rfl, by decide, by decide⟩
/-- SendQueuesPacket. -/
theorem test_witness_send_queues :
    opened.fault = none ∧ 15 < 16 ∧ messageOf [0xF8#8] = some (.one 0xF8#8) ∧ opened.isOpen = true ∧
      4 ≤ ({ opened with txCnt := 60 } : State).cfg.cTx - ({ opened with txCnt := 60 } : State).txCnt := by decide
/-- SendQueuesPacket (the refusals). -/
theorem test_witness_send_rejections :
    State.reset.fault = none ∧ 16 ≤ 16 ∧ 15 < 16 ∧ ([] : List Byte).length < 1 ∧ 1 ≤ [0xF8#8].length ∧
      [0xF8#8].length ≤ 3 ∧ State.reset.isOpen = false ∧ txFull.isOpen = true ∧ txFull.cfg.cTx - txFull.txCnt < 4 := by decide
/-- HelpersQueuePacket, HelpersAreOneSend. -/
theorem test_witness_helpers :
    opened.fault = none ∧ 15 < 16 ∧ opened.isOpen = true ∧ 4 ≤ opened.cfg.cTx - opened.txCnt ∧ 16 ≤ 16 := by decide
/-- RegisterWritesOneBit. -/
theorem test_witness_register :
    opened.fault = none ∧ 2 < opened.cfg.nRx ∧ opened.cfg.nRx ≤ 3 := by decide
/-- RegisterWriteRights. -/
theorem test_witness_write_rights :
    ∃ t, exec (.noteOn 1 0 0x3C#8 0x64#8) opened = .next t ∧ t.txBuf ≠ opened.txBuf ∧ opened.txCnt < t.txCnt ∧
      opened.txState = .idle ∧ t.txState = .transferPending :=
  ⟨_, rfl, by decide, by decide, rfl, rfl⟩
/-- RegisterWriteRights (the receive side). -/
theorem test_witness_write_rights_rx :
    ∃ t, exec .decodeStep { decoding with rxState := .idle } = .next t ∧ t.rxState = .transferPending ∧
      t.rxRd ≠ decoding.rxRd :=
  ⟨_, rfl, rfl, by decide⟩
/-- FaultIsSticky. -/
theorem test_witness_fault_sticky :
    faulted.fault = some .openWhileOpen := by decide
/-- FaultsHaveTheirCauses. -/
theorem test_witness_fault_causes :
    (nextOf (exec .openDevice opened)).map State.fault = some (some .openWhileOpen) ∧
      (nextOf (exec .openDevice (opened.setOpen false))).map State.fault =
        some (some (.openWhilePending false true)) ∧
      (nextOf (exec (.completeTx 0 0) opened)).map State.fault = some (some (.spuriousCompletion .tx)) ∧
      (nextOf (exec (.completeRx 0 0 []) State.reset)).map State.fault = some (some (.spuriousCompletion .rx)) ∧
      (nextOf (exec (.completeTx 0 5) sending)).map State.fault = some (some (.lengthOverrun .tx 5 4)) ∧
      (nextOf (exec (.completeRx 0 65 (List.replicate 65 0x00#8)) opened)).map State.fault =
        some (some (.lengthOverrun .rx 65 64)) := by decide
/-- StepKeepsInvariant, StepKeepsPumpsBusy, StepKeepsNoStrandedPacket, StepKeepsConfiguration. -/
theorem test_witness_step_keeps_inv :
    ∃ s t, Inv s ∧ PumpsBusy s ∧ NoStrandedPacket s ∧ step s = .next t :=
  ⟨opened.withRequests [⟨.usbStack, [0x13#8, 0x00#8, 0x01#8, 0x00#8, 0x28#8]⟩], _,
    ⟨opened_inv.tx.congr rfl rfl rfl rfl rfl rfl rfl, opened_inv.rx.congr rfl rfl rfl rfl rfl rfl rfl, opened_inv.mask⟩,
    fun _ => ⟨.inr rfl, .inl rfl⟩, fun _ h => absurd h (by decide), rfl⟩
/-- StepKeepsInFlightBytes. -/
theorem test_witness_step_keeps_in_flight :
    ∃ s t, Inv s ∧ InFlightBytes s ∧ s.txState = .transferPending ∧ step s = .next t :=
  ⟨sending.withRequests [⟨.application, [0x40#8, 0x00#8, 0x01#8, 0xF8#8]⟩], _,
    ⟨sending_inv.tx.congr rfl rfl rfl rfl rfl rfl rfl, sending_inv.rx.congr rfl rfl rfl rfl rfl rfl rfl,
      sending_inv.mask⟩, fun _ => by decide, rfl, rfl⟩
/-- StepKeepsNoStrandedPacket (its own premises). -/
theorem test_witness_no_stranded_packet :
    decoding.isOpen = true ∧ 4 ≤ decoding.rxCnt ∧ NoStrandedPacket decoding :=
  ⟨rfl, by decide, fun _ _ => .inr rfl⟩
/-- ConfigurationErrorHasNoInstance. -/
theorem test_witness_configuration_error :
    (State.construct? Config.vectors.toParams).isSome = true ∧
      (State.construct? { Config.vectors.toParams with nRx := 17 }).isSome = false := by decide
/-- TraceRecordsWhatHappens. -/
theorem test_witness_trace_records :
    ∃ t, exec .decodeStep { decoding with rxState := .idle } = .next t ∧ t.trace.length = 2 :=
  ⟨_, rfl, by decide⟩
/-- StepRunsRequest. -/
theorem test_witness_step_runs_request :
    opened.fault = none ∧ decodeRequest [0x40#8, 0x09#8, 0x01#8, 0xF8#8] = .ok (.send 9 [0xF8#8]) ∧
      mayIssue .application (.send 9 [0xF8#8]) = true := by decide
/-- WrongAgentIsRefused. -/
theorem test_witness_wrong_agent :
    opened.fault = none ∧ opened.requests = [] ∧ decodeRequest [0x01#8] = .ok .openDevice ∧
      decodeRequest [0x12#8, 0x00#8, 0x00#8, 0x00#8] = .ok (.completeTx 0 0) ∧ decodeRequest [0x30#8] = .ok .runTask ∧
      decodeRequest [0x44#8, 0x00#8, 0x01#8] = .ok (.register 0 true) ∧
      decodeRequest [0x22#8, 0x28#8, 0x80#8, 0x3C#8, 0x00#8] = .ok (.decodePacket 0x28#8 0x80#8 0x3C#8 0x00#8) ∧
      Agent.usbStack ≠ .lifecycle ∧
      Agent.lifecycle ≠ .usbStack ∧ Agent.application ≠ .scheduler ∧ Agent.scheduler ≠ .application := by decide
/-- ReceiveRingIsFifo. -/
theorem test_witness_fifo :
    ∃ t, RxRingInv opened ∧ exec (.completeRx 0 1 [0x28#8]) opened = .next t ∧ t.fault = none :=
  ⟨_, opened_inv.rx, rfl, rfl⟩
/-- TransmitRingIsFifo. -/
theorem test_witness_fifo_send :
    ∃ t, exec (.send 0 [0xF8#8]) sending = .next t ∧ t.fault = none ∧ t.reply = some (.code .ok) :=
  ⟨_, rfl, rfl, rfl⟩
/-- DeadBytesAreUnreadable. -/
theorem test_witness_dead_bytes :
    ∃ t, Inv opened ∧ SameButDeadBytes opened { opened with txBuf := [(5, 0x01#8)] } ∧
      exec (.send 0 [0xF8#8]) opened = .next t :=
  ⟨_, opened_inv, ⟨rfl, fun _ i h => absurd h (Nat.not_lt_zero i), fun _ i h => absurd h (Nat.not_lt_zero i)⟩, rfl⟩
/-- EveryOperationHasAStep. -/
theorem test_witness_every_operation :
    Inv decoding ∧ decoding.fault = none ∧ Instr.decodeStep.wellFormed = true :=
  ⟨decoding_inv, rfl, rfl⟩

/-- Memory at reset is in canonical form, and the invariants hold there (R42). -/
theorem test_reset_canonical : State.reset.txBuf.wf = true ∧ State.reset.rxBuf.wf = true := by decide
theorem test_reset_values :
    State.reset.isOpen = false ∧ State.reset.handlerMask = 0x0000#16 ∧ State.reset.fault = none ∧
      State.reset.trace = [] ∧ State.reset.requests = [] := by decide

end Sys2Proof.Tests
end

/-! # The block's scope (`00_scope.md`): construction, requests and packets

The statements of the family `00_scope.md`: what construction accepts (R12), which request a step runs and
which it refuses (R18, R225), what a packet does (R7), and that no step changes the configuration (R8). -/

section

namespace Sys2Proof

/-- The configuration check of R12 in arithmetic, with the caps' bounds of R13 (log entry 14). -/
theorem Params.valid_iff (p : Params) :
    p.valid = true ↔
      (1 ≤ p.nRx ∧ p.nRx ≤ 16) ∧ (1 ≤ p.nTx ∧ p.nTx ≤ 16) ∧
      (4 ≤ p.cTx ∧ p.cTx % 4 = 0 ∧ p.cTx ≤ 65535) ∧ (4 ≤ p.cRx ∧ p.cRx % 4 = 0 ∧ p.cRx ≤ 65535) ∧
      (1 ≤ p.xferMaxTx ∧ p.xferMaxTx ≤ 65535) ∧ (1 ≤ p.xferMaxRx ∧ p.xferMaxRx ≤ 65535) ∧
      (1 ≤ p.mps ∧ p.mps % 4 = 0) := by
  simp only [Params.valid, capacityOk, Bool.and_eq_true, decide_eq_true_eq, beq_iff_eq, and_assoc]

/-- The header byte spells the cable and the CIN, so a packet's bytes spell its fields (R76, R77). -/
theorem packetBytes_inj {cable cable' cin cin' : Nibble} {b1 b2 b3 b1' b2' b3' : Byte}
    (h : packetBytes cable cin b1 b2 b3 = packetBytes cable' cin' b1' b2' b3') :
    cable = cable' ∧ cin = cin' ∧ b1 = b1' ∧ b2 = b2' ∧ b3 = b3' := by
  simp only [packetBytes, List.cons.injEq, and_true] at h
  obtain ⟨hh, h1, h2, h3⟩ := h
  have hcable := congrArg headerCable hh
  have hcin := congrArg headerCin hh
  simp only [headerCable_headerByte, headerCin_headerByte] at hcable hcin
  exact ⟨hcable, hcin, h1, h2, h3⟩

end Sys2Proof

namespace Sys2Proof.Machine

variable {s t : State}

/-! ### Construction (R12) -/

/-- Construction gives the values of R42 under the parameters, which are valid. -/
theorem State.construct?_eq_some {p : Params} :
    State.construct? p = some s ↔ ∃ h : p.valid = true, State.construct ⟨p, h⟩ = s := by
  unfold State.construct?
  split <;> simp [*]

theorem State.construct?_isSome {p : Params} : (State.construct? p).isSome = true ↔ p.valid = true := by
  simp only [Option.isSome_iff_exists, State.construct?_eq_some]
  exact ⟨fun ⟨_, h, _⟩ => h, fun h => ⟨_, h, rfl⟩⟩

/-- Settles O44: construction succeeds exactly on the valid parameters, and the state carries them. -/
theorem configurationErrorHasNoInstance : Obligations.ConfigurationErrorHasNoInstance := by
  intro p
  refine ⟨State.construct?_isSome.trans (Params.valid_iff p), fun s h => ?_⟩
  obtain ⟨_, rfl⟩ := State.construct?_eq_some.mp h
  rfl

/-! ### Requests (R18, R225, R241) -/

theorem fetch_of_nil (h : s.requests = []) : fetch s = .error .noRequest := by
  simp [fetch, h]

/-- What `fetch` makes of a first request that decodes: its issuer decides. -/
theorem fetch_of_decoded {r : Request} {rs : List Request} {i : Instr} (hq : s.requests = r :: rs)
    (hd : decodeRequest r.bytes = .ok i) :
    fetch s = if mayIssue r.issuer i = true then .ok (i, s.withRequests rs)
      else .error (.wrongAgent r.issuer) := by
  simp only [fetch, hq, hd]

theorem step_of_fetch_ok {i : Instr} (hf : s.fault = none) (h : fetch s = .ok (i, t)) :
    step s = exec i t := by
  simp [step, hf, h]

theorem step_of_fetch_error {e : Refusal} (hf : s.fault = none) (h : fetch s = .error e) :
    step s = .refused e := by
  simp [step, hf, h]

theorem mayIssue_iff {a : Agent} {i : Instr} : mayIssue a i = true ↔ a = issuerOf i := by
  simp [mayIssue]

/-- Settles O47: the request's issuer may issue it, so `fetch` hands its operation to `exec`. -/
theorem stepRunsRequest : Obligations.StepRunsRequest := by
  intro s r rs i hf hq hd hm
  have hfetch : fetch s = .ok (i, s.withRequests rs) := by
    rw [fetch_of_decoded hq hd, if_pos hm]
  exact step_of_fetch_ok hf hfetch

/-- A request of an agent other than that of its operation's row is refused (R225, I17). -/
theorem step_of_wrongAgent {a : Agent} {bs : List Byte} {rs : List Request} {i : Instr}
    (hf : s.fault = none) (hq : s.requests = ⟨a, bs⟩ :: rs) (hd : decodeRequest bs = .ok i)
    (ha : a ≠ issuerOf i) : step s = .refused (.wrongAgent a) := by
  have hm : ¬ mayIssue a i = true := mt mayIssue_iff.mp ha
  exact step_of_fetch_error hf (by rw [fetch_of_decoded hq hd, if_neg hm])

section rows
variable {i : Instr}

/-! The four rows of R225's table. -/

theorem issuerOf_lifecycleRow
    (h : i = .openDevice ∨ i = .closeDevice ∨ i = .armTx ∨ i = .armRx) : issuerOf i = .lifecycle := by
  rcases h with rfl | rfl | rfl | rfl <;> rfl

theorem issuerOf_usbStackRow
    (h : (∃ st l, i = .completeTx st l) ∨ (∃ st l d, i = .completeRx st l d)) :
    issuerOf i = .usbStack := by
  rcases h with ⟨_, _, rfl⟩ | ⟨_, _, _, rfl⟩ <;> rfl

theorem issuerOf_schedulerRow (h : i = .runTask ∨ i = .decodeStep) : issuerOf i = .scheduler := by
  rcases h with rfl | rfl <;> rfl

/-- The application's row, the codec operations among them (log entry 10). -/
theorem issuerOf_applicationRow
    (h : (∃ c m, i = .send c m) ∨ (∃ c ch x y, i = .noteOn c ch x y) ∨
      (∃ c ch x y, i = .noteOff c ch x y) ∨ (∃ c ch x y, i = .controlChange c ch x y) ∨
      (∃ c p, i = .register c p) ∨ (∃ c n x y z, i = .pack c n x y z) ∨ (∃ c m, i = .encode c m) ∨
      (∃ w x y z, i = .decodePacket w x y z)) : issuerOf i = .application := by
  rcases h with ⟨_, _, rfl⟩ | ⟨_, _, _, _, rfl⟩ | ⟨_, _, _, _, rfl⟩ | ⟨_, _, _, _, rfl⟩ | ⟨_, _, rfl⟩ |
    ⟨_, _, _, _, _, rfl⟩ | ⟨_, _, rfl⟩ | ⟨_, _, _, _, rfl⟩ <;> rfl

end rows

/-- Settles O48: each row of R225 has one issuer, and a request from another is refused. -/
theorem wrongAgentIsRefused : Obligations.WrongAgentIsRefused := by
  intro s rs a bs i hf
  refine ⟨fun hq => step_of_fetch_error hf (fetch_of_nil hq), fun hq hd => ?_,
    fun h => mayIssue_iff.mpr (issuerOf_lifecycleRow h).symm,
    fun h => mayIssue_iff.mpr (issuerOf_usbStackRow h).symm,
    fun h => mayIssue_iff.mpr (issuerOf_schedulerRow h).symm,
    fun h => mayIssue_iff.mpr (issuerOf_applicationRow h).symm⟩
  have refused {owner : Agent} (ho : issuerOf i = owner) (ha : a ≠ owner) :
      step s = .refused (.wrongAgent a) :=
    step_of_wrongAgent hf hq hd (ho ▸ ha)
  exact ⟨fun h => refused (issuerOf_lifecycleRow h), fun h => refused (issuerOf_usbStackRow h),
    fun h => refused (issuerOf_schedulerRow h), fun h => refused (issuerOf_applicationRow h)⟩

/-! ### Packets (R7, R175 to R177, R183) -/

theorem rxCableOf_shared {c : Config} (h : c.strategy = .shared) (nibble : Nibble) :
    rxCableOf c nibble = nibble := by
  simp [rxCableOf, h]

/-- The packet row of a CIN delivers the packet with that CIN (R80 to R95). -/
theorem exec_packetInstr (cin cable : Nibble) (b1 b2 b3 : Byte) (s : State) :
    exec (packetInstr cin cable b1 b2 b3) s = deliverPacket ⟨cable, cin, b1, b2, b3⟩ s := by
  obtain ⟨hformat, -, hbytes⟩ := packetInstr_cases cin cable b1 b2 b3
  obtain ⟨⟨_, _, _, _, _⟩, hexec, hbytes'⟩ := exec_packet hformat
  obtain ⟨rfl, rfl, rfl, rfl, rfl⟩ := packetBytes_inj (hbytes.symm.trans hbytes')
  exact hexec s

/-- Delivering a packet, unfaulted: its Dispatch event and DISPATCHED if its cable has a handler, DROPPED
and nothing else otherwise. -/
theorem deliverPacket_eq (hf : s.fault = none) (u : Unpacked) :
    deliverPacket u s = .next (
      if s.dispatchable (rxCableOf s.cfg u.nibble) = true then
        { s with
          trace := s.trace ++ [.dispatch (rxCableOf s.cfg u.nibble) u.cin u.b1 u.b2 u.b3]
          reply := some (.code .dispatched) }
      else { s with reply := some (.code .dropped) }) := by
  rw [deliverPacket, unlessFaulted_of_none hf, finishCode_next, deliver_fst, deliver_snd,
    deliveredEvents]
  split <;> simp [State.withReply]

/-- Settles O29: each row is its CIN's packet row, which delivers the packet. -/
theorem packetsAreDeliveredOrDropped : Obligations.PacketsAreDeliveredOrDropped := by
  intro s cable b1 b2 b3 hf p hp
  have hrow : p.2 = packetInstr p.1 cable b1 b2 b3 := by
    revert p
    simp [packetInstr]
  refine ⟨fun hs => rxCableOf_shared hs cable, ?_⟩
  rw [hrow, exec_packetInstr, deliverPacket_eq hf]
  simp only [dispatchable_iff]

/-! ### The configuration (R8) -/

@[simp] theorem submitRxRegion_cfg (s : State) : (submitRxRegion s).cfg = s.cfg := rfl

/-- No operation changes the configuration: it is a parameter of the step relation (R8). -/
theorem exec_keeps_cfg {i : Instr} (h : exec i s = .next t) : t.cfg = s.cfg := by
  cases hi : i.format with
  | eventPacket =>
    obtain ⟨u, hu, -⟩ := exec_packet hi
    rw [deliverPacket_next ((hu s).symm.trans h)]
    simp
  | op =>
    cases i with
    | openDevice => rcases execOpen_next h with ⟨-, rfl⟩ | ⟨-, -, rfl⟩ | ⟨-, -, -, rfl⟩ <;> simp
    | closeDevice => simp [execClose_next h]
    | armTx => simp [execArmTx_next h]
    | armRx => simp [execArmRx_next h]
    | completeTx =>
      rcases execCompleteTx_next h with
        ⟨-, rfl⟩ | ⟨-, -, -, -, rfl⟩ | ⟨-, -, rfl⟩ | ⟨-, -, -, -, rfl⟩ | ⟨-, -, -, rfl⟩ <;> simp
    | completeRx =>
      rcases (execCompleteRx_next h).2 with
        ⟨-, rfl⟩ | ⟨-, -, -, -, rfl⟩ | ⟨-, -, rfl⟩ | ⟨-, -, -, -, -, rfl⟩ | ⟨-, -, -, rfl⟩ <;> simp
    | pack => obtain ⟨_, rfl, -⟩ := execPack_next h; rfl
    | encode => obtain ⟨_, rfl, -⟩ := execEncode_next h; rfl
    | decodePacket => obtain ⟨_, rfl, -⟩ := execDecodePacket_next h; rfl
    | runTask => rcases execRunTask_next h with ⟨-, rfl⟩ | ⟨-, -, rfl⟩ | ⟨-, -, rfl⟩ <;> rfl
    | decodeStep =>
      rcases execDecodeStep_next h with
        ⟨-, rfl⟩ | ⟨-, -, rfl⟩ | ⟨-, -, -, rfl⟩ | ⟨-, -, -, rfl⟩ <;> simp
    | send => rcases execSend_next h with ⟨_, -, rfl⟩ | ⟨_, -, -, -, -, rfl⟩ <;> simp
    | noteOn | noteOff | controlChange =>
      rcases sendHelper_next h with ⟨_, -, rfl⟩ | ⟨-, -, -, -, rfl⟩ <;> simp
    | register => rcases execRegister_next h with ⟨-, rfl⟩ | ⟨-, rfl⟩ <;> rfl
    | _ => cases hi

/-- Settles O45: a step is `exec` of an operation with its request taken, and neither changes the
configuration. -/
theorem stepKeepsConfiguration : Obligations.StepKeepsConfiguration := by
  intro s t h
  obtain ⟨r, rs, i, -, -, -, -, hexec⟩ := step_next h
  simpa using exec_keeps_cfg hexec

end Sys2Proof.Machine

end

/-! # The state (`10_state.md`)

The statements of the family `10_state.md`. `Effect` says once what an operation that completes can do to
the registers; the invariants of R37, the write rights of R40 and the growth of TRACE (R38) are read off it,
one case an effect. That dead ring bytes are unreadable (R43) compares two runs, so it follows the
meanings themselves instead. -/

section

namespace Sys2Proof.Machine

variable {s t : State} {i : Instr}

/-! ### What an operation can do -/

/-- SEND and the helpers, the writers of TXBUF (R31, R200). -/
def Sends (i : Instr) : Prop :=
  (∃ c m, i = .send c m) ∨ (∃ c ch a b, i = .noteOn c ch a b) ∨
    (∃ c ch a b, i = .noteOff c ch a b) ∨ (∃ c ch a b, i = .controlChange c ch a b)

def CompletesTx (i : Instr) : Prop := ∃ st l, i = .completeTx st l

def CompletesRx (i : Instr) : Prop := ∃ st l d, i = .completeRx st l d

/-- Everything an operation can do when it completes: the register writes it makes, in order, with the
guards it made them under. An arm attempt while closed does nothing, so a completion or a task's end has
one case for "closed" and "failed". -/
inductive Effect (s : State) : Instr → State → Prop where
  | replies (i : Instr) (r : Reply) : Effect s i (s.withReply (some r))
  | faults {i : Instr} (f : FaultName) (hi : i = .openDevice ∨ CompletesTx i ∨ CompletesRx i) :
      Effect s i ((s.withFault f).withReply none)
  | opens (ht : s.txState = .idle) (hr : s.rxState = .idle) (r : Reply) :
      Effect s .openDevice ((armRx (s.restartRings.setOpen true)).1.withReply (some r))
  | closes (r : Reply) : Effect s .closeDevice ((s.setOpen false).withReply (some r))
  | armsTx (r : Reply) : Effect s .armTx ((armTx s).1.withReply (some r))
  | armsRx (r : Reply) : Effect s .armRx ((armRx s).1.withReply (some r))
  | releasesTx {st l : Nat} (hp : s.txState = .transferPending) (r : Reply) :
      Effect s (.completeTx st l) ((armTx s.txToIdle).1.withReply (some r))
  | confirmsTx {l : Nat} (hp : s.txState = .transferPending) (hl : l ≤ s.txXferLen) (r : Reply) :
      Effect s (.completeTx 0 l) ((armTx (s.txToIdle.advanceTx l)).1.withReply (some r))
  | releasesRx {st l : Nat} {d : List Byte} (hp : s.rxState = .transferPending) (r : Reply) :
      Effect s (.completeRx st l d) ((armRx s.rxToIdle).1.withReply (some r))
  | receives {d : List Byte} (hp : s.rxState = .transferPending) (hl : d.length ≤ s.rxXferLen) (r : Reply) :
      Effect s (.completeRx 0 d.length d) ((armRx (s.rxToIdle.receive d.length d)).1.withReply (some r))
  | startsTask (r : Reply) : Effect s .runTask (s.startTask.withReply (some r))
  | endsTask (r : Reply) : Effect s .decodeStep ((armRx s.endTask).1.withReply (some r))
  | decodes (hc : 4 ≤ s.rxCnt) (u : Unpacked) (r : Reply) :
      Effect s .decodeStep ((armRx (deliver s.consumeGroup u).1).1.withReply (some r))
  | queues {i : Instr} (hi : Sends i) (hf : 4 ≤ s.txFree) (p : Packet) (r : Reply) :
      Effect s i ((armTx (s.queuePacket p)).1.withReply (some r))
  | registers {cable : Nat} {present : Bool} (hc : cable < s.cfg.nRx) (r : Reply) :
      Effect s (.register cable present) ((s.setHandler cable present).withReply (some r))
  | delivers {i : Instr} (hi : i.format = .eventPacket) (u : Unpacked) (r : Reply) :
      Effect s i ((deliver s u).1.withReply (some r))

/-- An arm attempt while closed leaves every register alone (R108). -/
theorem armTx_fst_closed (h : s.isOpen = false) : (armTx s).1 = s := by
  rw [armTx_closed h]

/-- An arm attempt while closed leaves every register alone (R112). -/
theorem armRx_fst_closed (h : s.isOpen = false) : (armRx s).1 = s := by
  rw [armRx_closed h]

theorem Effect.of_open (h : execOpen s = .next t) : Effect s .openDevice t := by
  rcases execOpen_next h with ⟨-, rfl⟩ | ⟨-, -, rfl⟩ | ⟨-, ht, hr, rfl⟩
  · exact .faults _ (.inl rfl)
  · exact .faults _ (.inl rfl)
  · have hfree : (s.restartRings.setOpen true).rxFree ≠ 0 := by
      have hcap := s.cfg.cRx_ge
      simp only [State.rxFree, State.setOpen_cfg, State.restartRings_cfg, State.setOpen_rxCnt,
        State.restartRings_rxCnt]
      omega
    have harm := armRx_submits (s := s.restartRings.setOpen true) rfl hr hfree
    have heffect := Effect.opens ht hr (.code .ok)
    rwa [harm] at heffect

theorem Effect.of_completeTx {st l : Nat} (h : execCompleteTx st l s = .next t) :
    Effect s (.completeTx st l) t := by
  rcases execCompleteTx_next h with
    ⟨-, rfl⟩ | ⟨-, -, -, -, rfl⟩ | ⟨hp, ho, rfl⟩ | ⟨hp, -, rfl, hl, rfl⟩ | ⟨hp, -, -, rfl⟩
  · exact .faults _ (.inr (.inl ⟨_, _, rfl⟩))
  · exact .faults _ (.inr (.inl ⟨_, _, rfl⟩))
  · rw [← armTx_fst_closed (s := s.txToIdle) ho]
    exact .releasesTx hp _
  · exact .confirmsTx hp hl _
  · exact .releasesTx hp _

theorem Effect.of_completeRx {st l : Nat} {d : List Byte} (h : execCompleteRx st l d s = .next t) :
    Effect s (.completeRx st l d) t := by
  obtain ⟨rfl, h⟩ := execCompleteRx_next h
  rcases h with ⟨-, rfl⟩ | ⟨-, -, -, -, rfl⟩ | ⟨hp, ho, rfl⟩ | ⟨hp, -, rfl, hl, -, rfl⟩ | ⟨hp, -, -, rfl⟩
  · exact .faults _ (.inr (.inr ⟨_, _, _, rfl⟩))
  · exact .faults _ (.inr (.inr ⟨_, _, _, rfl⟩))
  · rw [← armRx_fst_closed (s := s.rxToIdle) ho]
    exact .releasesRx hp _
  · exact .receives hp hl _
  · exact .releasesRx hp _

theorem Effect.of_decodeStep (h : execDecodeStep s = .next t) : Effect s .decodeStep t := by
  rcases execDecodeStep_next h with ⟨-, rfl⟩ | ⟨-, ho, rfl⟩ | ⟨-, -, -, rfl⟩ | ⟨-, -, hc, rfl⟩
  · exact .replies _ _
  · rw [← armRx_fst_closed (s := s.endTask) ho]
    exact .endsTask _
  · exact .endsTask _
  · exact .decodes hc _ _

theorem Effect.of_sendHelper {base : Byte} {cable channel : Nat} {b1 b2 : Byte} (hi : Sends i)
    (h : sendHelper base cable channel b1 b2 s = .next t) : Effect s i t := by
  rcases sendHelper_next h with ⟨_, -, rfl⟩ | ⟨-, -, -, hf, rfl⟩
  · exact .replies _ _
  · exact .queues hi hf _ _

/-- The inversion of `exec`: an operation that completes has one of the effects. -/
theorem exec_effect (h : exec i s = .next t) : Effect s i t := by
  cases hi : i.format with
  | eventPacket =>
    obtain ⟨u, hu, -⟩ := exec_packet hi
    rw [deliverPacket_next ((hu s).symm.trans h)]
    exact .delivers hi _ _
  | op =>
    cases i with
    | openDevice => exact .of_open h
    | closeDevice => rw [execClose_next h]; exact .closes _
    | armTx => rw [execArmTx_next h]; exact .armsTx _
    | armRx => rw [execArmRx_next h]; exact .armsRx _
    | completeTx => exact .of_completeTx h
    | completeRx => exact .of_completeRx h
    | pack => obtain ⟨_, rfl, -⟩ := execPack_next h; exact .replies _ _
    | encode => obtain ⟨_, rfl, -⟩ := execEncode_next h; exact .replies _ _
    | decodePacket => obtain ⟨_, rfl, -⟩ := execDecodePacket_next h; exact .replies _ _
    | runTask =>
      rcases execRunTask_next h with ⟨-, rfl⟩ | ⟨-, -, rfl⟩ | ⟨-, -, rfl⟩
      · exact .replies _ _
      · exact .replies _ _
      · exact .startsTask _
    | decodeStep => exact .of_decodeStep h
    | send =>
      rcases execSend_next h with ⟨_, -, rfl⟩ | ⟨_, -, -, -, hf, rfl⟩
      · exact .replies _ _
      · exact .queues (.inl ⟨_, _, rfl⟩) hf _ _
    | noteOn => exact .of_sendHelper (.inr (.inl ⟨_, _, _, _, rfl⟩)) h
    | noteOff => exact .of_sendHelper (.inr (.inr (.inl ⟨_, _, _, _, rfl⟩))) h
    | controlChange => exact .of_sendHelper (.inr (.inr (.inr ⟨_, _, _, _, rfl⟩))) h
    | register =>
      rcases execRegister_next h with ⟨-, rfl⟩ | ⟨hc, rfl⟩
      · exact .replies _ _
      · exact .registers hc _
    | _ => cases hi

/-! ### The invariants (R33, R37, R42) -/

/-- The registers the transmit invariant reads. -/
@[simp] def State.txSide (s : State) : Config × PumpState × Nat × Nat × Nat × Nat × Memory :=
  (s.cfg, s.txState, s.txXferOff, s.txXferLen, s.txRd, s.txCnt, s.txBuf)

/-- The registers the receive invariant reads. -/
@[simp] def State.rxSide (s : State) : Config × PumpState × Nat × Nat × Nat × Nat × Memory :=
  (s.cfg, s.rxState, s.rxXferOff, s.rxXferLen, s.rxRd, s.rxCnt, s.rxBuf)

theorem TxRingInv.of_txSide (hs : TxRingInv s) (h : t.txSide = s.txSide) : TxRingInv t := by
  simp only [State.txSide, Prod.mk.injEq] at h
  obtain ⟨hcfg, hstate, hoff, hlen, hrd, hcnt, hbuf⟩ := h
  exact hs.congr hcfg hstate hoff hlen hrd hcnt hbuf

theorem RxRingInv.of_rxSide (hs : RxRingInv s) (h : t.rxSide = s.rxSide) : RxRingInv t := by
  simp only [State.rxSide, Prod.mk.injEq] at h
  obtain ⟨hcfg, hstate, hoff, hlen, hrd, hcnt, hbuf⟩ := h
  exact hs.congr hcfg hstate hoff hlen hrd hcnt hbuf

/-- An effect keeps the transmit side's invariant: the transmit effects by the lemma of their last register
write, every other effect because it leaves the transmit side's registers alone. -/
theorem Effect.keeps_txRingInv (h : Effect s i t) (hs : TxRingInv s) : TxRingInv t := by
  cases h with
  | opens ht _ _ => exact (hs.restart ht).of_txSide (by simp)
  | armsTx _ => exact hs.arm.of_txSide rfl
  | releasesTx _ _ => exact hs.txToIdle.arm.of_txSide rfl
  | confirmsTx hp hl _ =>
    obtain ⟨-, -, hlen, -⟩ := hs.in_flight hp
    exact (hs.advance (hl.trans hlen)).arm.of_txSide rfl
  | queues _ hf p _ => exact (hs.queue p hf).arm.of_txSide rfl
  | _ => exact hs.of_txSide (by simp)

/-- An effect keeps the receive side's invariant, as for the transmit side. -/
theorem Effect.keeps_rxRingInv (h : Effect s i t) (hs : RxRingInv s) : RxRingInv t := by
  cases h with
  | opens _ hr _ => exact (hs.restart hr).arm.of_rxSide rfl
  | armsRx _ => exact hs.arm.of_rxSide rfl
  | releasesRx _ _ => exact hs.rxToIdle.arm.of_rxSide rfl
  | receives hp hl _ => exact (hs.receive hp hl).arm.of_rxSide rfl
  | endsTask _ =>
    have htask : RxRingInv s.endTask := hs.of_rxSide rfl
    exact htask.arm.of_rxSide rfl
  | decodes hc u _ =>
    have hdelivered : RxRingInv (deliver s.consumeGroup u).1 := (hs.consume hc).of_rxSide (by simp)
    exact hdelivered.arm.of_rxSide rfl
  | _ => exact hs.of_rxSide (by simp)

/-- Setting or clearing one bit of HANDLER_MASK leaves the others alone (R201). -/
theorem getLsbD_maskWith_of_ne {mask : Mask} {cable c : Nat} {present : Bool} (h : c ≠ cable) :
    (maskWith mask cable present).getLsbD c = mask.getLsbD c := by
  have hbit : (1#16 <<< cable).getLsbD c = false := by
    simp [BitVec.getLsbD_shiftLeft, BitVec.getLsbD_one]
    omega
  cases present with
  | true => simp only [maskWith, if_true, BitVec.getLsbD_or, hbit, Bool.or_false]
  | false =>
    simp only [maskWith, Bool.false_eq_true, if_false, BitVec.getLsbD_and, BitVec.getLsbD_not, hbit]
    simpa using BitVec.lt_of_getLsbD

/-- An effect keeps the hardwired bits of HANDLER_MASK: REGISTER writes a bit below N_RX (R33). -/
theorem Effect.keeps_mask (h : Effect s i t) (hs : ∀ c, s.cfg.nRx ≤ c → s.handlerBit c = false) :
    ∀ c, t.cfg.nRx ≤ c → t.handlerBit c = false := by
  cases h with
  | registers hc _ =>
    intro c hle
    have hne : c ≠ _ := (Nat.lt_of_lt_of_le hc hle).ne'
    exact (getLsbD_maskWith_of_ne hne).trans (hs c hle)
  | _ => simpa [State.handlerBit] using hs

theorem Effect.keeps_inv (h : Effect s i t) (hs : Inv s) : Inv t where
  tx := h.keeps_txRingInv hs.tx
  rx := h.keeps_rxRingInv hs.rx
  mask := h.keeps_mask hs.mask

/-- The invariants read no waiting request. -/
theorem Inv.withRequests (hs : Inv s) (rs : List Request) : Inv (s.withRequests rs) where
  tx := hs.tx.of_txSide rfl
  rx := hs.rx.of_rxSide rfl
  mask := hs.mask

/-- Settles O38: a step runs one operation with its request taken, and every effect of an operation keeps
the invariants of the transmit side, of the receive side and of HANDLER_MASK. -/
theorem stepKeepsInvariant : Obligations.StepKeepsInvariant := by
  intro s t hs h
  obtain ⟨_, rs, _, -, -, -, -, hexec⟩ := step_next h
  exact (exec_effect hexec).keeps_inv (hs.withRequests rs)

/-- A construction's rings are empty and its pumps Idle (R42). -/
theorem inv_construct (c : Config) : Inv (State.construct c) where
  tx := {
    rd_lt := by have := c.cTx_ge; show 0 < c.cTx; omega
    cnt_le := Nat.zero_le _
    wr_aligned := by simp [State.txWr, State.construct]
    in_flight := by intro h; cases h
    canonical := rfl
    in_range := fun _ _ => rfl
    live := fun _ h => absurd h (Nat.not_lt_zero _) }
  rx := {
    rd_lt := by have := c.cRx_ge; show 0 < c.cRx; omega
    cnt_le := Nat.zero_le _
    rd_aligned := rfl
    in_flight := by intro h; cases h
    canonical := rfl
    in_range := fun _ _ => rfl
    live := fun _ h => absurd h (Nat.not_lt_zero _) }
  mask := fun _ _ => BitVec.getLsbD_zero

/-- Settles O42: nothing is open, in flight or received, so the three invariants beside `Inv` hold
vacuously. -/
theorem constructionMeetsInvariants : Obligations.ConstructionMeetsInvariants := by
  intro c
  refine ⟨inv_construct c, ?_, ?_, ?_⟩
  · intro hpending; cases hpending
  · intro hopen; cases hopen
  · intro hopen; cases hopen

/-- Settles O43: `State.construct` writes R42's values, and an empty storage holds no byte. -/
theorem constructionValues : Obligations.ConstructionValues := by
  intro c
  have hbytes (a : Nat) : storedByte [] a = none ∧ storedByte [] a = none := ⟨rfl, rfl⟩
  exact ⟨rfl, rfl, rfl, rfl, rfl, rfl, rfl, rfl, rfl, rfl, rfl, hbytes, rfl, rfl, rfl, rfl, rfl⟩

/-! ### FAULT (R36) -/

/-- While FAULT is set no operation has a step: every meaning checks it first (R36). -/
theorem exec_of_faulted {f : FaultName} (i : Instr) (h : s.fault = some f) :
    exec i s = .fault (.quiescent f) := by
  cases i <;> exact unlessFaulted_of_some h

/-- Settles O36: `exec` and `step` check FAULT before everything else. -/
theorem faultIsSticky : Obligations.FaultIsSticky := by
  intro i s f h
  exact ⟨exec_of_faulted i h, unlessFaulted_of_some h⟩

end Sys2Proof.Machine

end

/-! # Write rights and TRACE (`10_state.md` R38, R40) -/

section

namespace Sys2Proof.Machine

variable {i : Instr} {s t : State}

/-! ### The pumps (R23 to R26, R102) -/

/-- `ARM_TX()` changes nothing, or submits from an Idle pump while open: its Submit, of the region then in
flight and with its bytes, is the last event (R101, R108). -/
theorem armTx_unchanged_or_submits (s : State) :
    (armTx s).1 = s ∨
    (s.isOpen = true ∧ s.txState = .idle ∧ (armTx s).1.txState = .transferPending ∧
      (armTx s).1.trace = s.trace ++ [.submitTx (armTx s).1.txXferOff (armTx s).1.txXferLen
        (memReadFrom .tx (armTx s).1.txBuf (armTx s).1.txXferOff (armTx s).1.txXferLen)]) := by
  rcases armTx_cases s with ⟨-, h⟩ | ⟨-, -, h⟩ | ⟨-, -, -, h⟩ | ⟨ho, hi, -, h⟩
  · exact .inl (by rw [h])
  · exact .inl (by rw [h])
  · exact .inl (by rw [h])
  · rw [h]; exact .inr ⟨ho, hi, rfl, rfl⟩

/-- `ARM_RX()` changes nothing, or submits from an Idle pump while open, its Submit the last event (R101,
R112). -/
theorem armRx_unchanged_or_submits (s : State) :
    (armRx s).1 = s ∨
    (s.isOpen = true ∧ s.rxState = .idle ∧ (armRx s).1.rxState = .transferPending ∧
      (armRx s).1.trace = s.trace ++ [.submitRx (armRx s).1.rxXferOff (armRx s).1.rxXferLen]) := by
  rcases armRx_cases s with ⟨-, h⟩ | ⟨-, -, h⟩ | ⟨-, -, -, h⟩ | ⟨ho, hi, -, h⟩
  · exact .inl (by rw [h])
  · exact .inl (by rw [h])
  · exact .inl (by rw [h])
  · rw [h]; exact .inr ⟨ho, hi, rfl, rfl⟩

/-- What an operation can do to the transmit pump. -/
inductive TxPumpMove (i : Instr) (s t : State) : Prop where
  | rests (hstate : t.txState = s.txState) (hoff : t.txXferOff = s.txXferOff)
      (hlen : t.txXferLen = s.txXferLen)
  | released (hi : CompletesTx i) (hstate : t.txState = .idle) (hoff : t.txXferOff = s.txXferOff)
      (hlen : t.txXferLen = s.txXferLen)
  | submitted (hfrom : s.txState = .idle ∧ (i = .armTx ∨ Sends i) ∨
        s.txState = .transferPending ∧ CompletesTx i)
      (hstate : t.txState = .transferPending)
      (htrace : t.trace = s.trace ++
        [.submitTx t.txXferOff t.txXferLen (memReadFrom .tx t.txBuf t.txXferOff t.txXferLen)])

/-- What an operation can do to the receive pump; DECODE_STEP may dispatch before it submits (R173). -/
inductive RxPumpMove (i : Instr) (s t : State) : Prop where
  | rests (hstate : t.rxState = s.rxState) (hoff : t.rxXferOff = s.rxXferOff)
      (hlen : t.rxXferLen = s.rxXferLen)
  | released (hi : CompletesRx i) (hstate : t.rxState = .idle) (hoff : t.rxXferOff = s.rxXferOff)
      (hlen : t.rxXferLen = s.rxXferLen)
  | submitted (hfrom : s.rxState = .idle ∧ (i = .armRx ∨ i = .openDevice ∨ i = .decodeStep) ∨
        s.rxState = .transferPending ∧ CompletesRx i)
      (hstate : t.rxState = .transferPending)
      (htrace : ∃ es, t.trace = s.trace ++ es ++ [.submitRx t.rxXferOff t.rxXferLen])

theorem TxPumpMove.of_completion {u : State} {r : Option Reply} (hi : CompletesTx i)
    (hp : s.txState = .transferPending) (hstate : u.txState = .idle) (hoff : u.txXferOff = s.txXferOff)
    (hlen : u.txXferLen = s.txXferLen) (htrace : u.trace = s.trace) :
    TxPumpMove i s ((armTx u).1.withReply r) := by
  rcases armTx_unchanged_or_submits u with hu | ⟨-, -, hpending, hsubmit⟩
  · rw [hu]; exact .released hi hstate hoff hlen
  · rw [htrace] at hsubmit; exact .submitted (.inr ⟨hp, hi⟩) hpending hsubmit

theorem TxPumpMove.of_arm {u : State} {r : Option Reply} (hi : i = .armTx ∨ Sends i)
    (hstate : u.txState = s.txState) (hoff : u.txXferOff = s.txXferOff) (hlen : u.txXferLen = s.txXferLen)
    (htrace : u.trace = s.trace) : TxPumpMove i s ((armTx u).1.withReply r) := by
  rcases armTx_unchanged_or_submits u with hu | ⟨-, hidle, hpending, hsubmit⟩
  · rw [hu]; exact .rests hstate hoff hlen
  · rw [htrace] at hsubmit; exact .submitted (.inl ⟨hstate ▸ hidle, hi⟩) hpending hsubmit

theorem RxPumpMove.of_completion {u : State} {r : Option Reply} (hi : CompletesRx i)
    (hp : s.rxState = .transferPending) (hstate : u.rxState = .idle) (hoff : u.rxXferOff = s.rxXferOff)
    (hlen : u.rxXferLen = s.rxXferLen) (htrace : u.trace = s.trace) :
    RxPumpMove i s ((armRx u).1.withReply r) := by
  rcases armRx_unchanged_or_submits u with hu | ⟨-, -, hpending, hsubmit⟩
  · rw [hu]; exact .released hi hstate hoff hlen
  · rw [htrace] at hsubmit; exact .submitted (.inr ⟨hp, hi⟩) hpending ⟨[], by simpa using hsubmit⟩

theorem RxPumpMove.of_arm {u : State} {r : Option Reply} {es : List Event}
    (hi : i = .armRx ∨ i = .openDevice ∨ i = .decodeStep)
    (hstate : u.rxState = s.rxState) (hoff : u.rxXferOff = s.rxXferOff) (hlen : u.rxXferLen = s.rxXferLen)
    (htrace : u.trace = s.trace ++ es) : RxPumpMove i s ((armRx u).1.withReply r) := by
  rcases armRx_unchanged_or_submits u with hu | ⟨-, hidle, hpending, hsubmit⟩
  · rw [hu]; exact .rests hstate hoff hlen
  · rw [htrace] at hsubmit; exact .submitted (.inl ⟨hstate ▸ hidle, hi⟩) hpending ⟨es, hsubmit⟩

theorem Effect.txPumpMove (h : Effect s i t) : TxPumpMove i s t := by
  cases h with
  | armsTx _ => exact .of_arm (.inl rfl) rfl rfl rfl rfl
  | queues hi _ _ _ => exact .of_arm (.inr hi) rfl rfl rfl rfl
  | releasesTx hp _ => exact .of_completion ⟨_, _, rfl⟩ hp rfl rfl rfl rfl
  | confirmsTx hp _ _ => exact .of_completion ⟨_, _, rfl⟩ hp rfl rfl rfl rfl
  | _ => exact .rests (by simp) (by simp) (by simp)

theorem Effect.rxPumpMove (h : Effect s i t) : RxPumpMove i s t := by
  cases h with
  | opens _ _ _ => exact .of_arm (es := []) (.inr (.inl rfl)) rfl rfl rfl (by simp)
  | armsRx _ => exact .of_arm (es := []) (.inl rfl) rfl rfl rfl (by simp)
  | endsTask _ => exact .of_arm (es := []) (.inr (.inr rfl)) rfl rfl rfl (by simp)
  | decodes _ u _ =>
    refine .of_arm (es := deliveredEvents s.consumeGroup u) (.inr (.inr rfl)) (by simp) (by simp) (by simp) ?_
    rw [deliver_fst, State.consumeGroup_trace]
  | releasesRx hp _ => exact .of_completion ⟨_, _, _, rfl⟩ hp rfl rfl rfl rfl
  | receives hp _ _ => exact .of_completion ⟨_, _, _, rfl⟩ hp rfl rfl rfl rfl
  | _ => exact .rests (by simp) (by simp) (by simp)

theorem TxPumpMove.idle_writer (h : TxPumpMove i s t) (ht : t.txState = .idle) (hs : s.txState ≠ .idle) :
    CompletesTx i := by
  cases h with
  | rests hstate _ _ => exact absurd (hstate.symm.trans ht) hs
  | released hi _ _ _ => exact hi
  | submitted _ hstate _ => rw [hstate] at ht; cases ht

theorem TxPumpMove.pending_writer (h : TxPumpMove i s t) (hs : s.txState = .idle)
    (ht : t.txState = .transferPending) : (i = .armTx ∨ Sends i) ∧
      t.trace = s.trace ++
        [.submitTx t.txXferOff t.txXferLen (memReadFrom .tx t.txBuf t.txXferOff t.txXferLen)] := by
  cases h with
  | rests hstate _ _ => rw [hstate, hs] at ht; cases ht
  | released _ hstate _ _ => rw [hstate] at ht; cases ht
  | submitted hfrom _ htrace =>
    rcases hfrom with ⟨-, hi⟩ | ⟨hp, -⟩
    · exact ⟨hi, htrace⟩
    · rw [hs] at hp; cases hp

theorem TxPumpMove.region_writer (h : TxPumpMove i s t)
    (hw : t.txXferOff ≠ s.txXferOff ∨ t.txXferLen ≠ s.txXferLen) :
    t.txState = .transferPending ∧ (s.txState = .idle ∨ CompletesTx i) := by
  cases h with
  | rests _ hoff hlen => exact absurd hw (by simp [hoff, hlen])
  | released _ _ hoff hlen => exact absurd hw (by simp [hoff, hlen])
  | submitted hfrom hstate _ => exact ⟨hstate, hfrom.imp And.left And.right⟩

theorem RxPumpMove.idle_writer (h : RxPumpMove i s t) (ht : t.rxState = .idle) (hs : s.rxState ≠ .idle) :
    CompletesRx i := by
  cases h with
  | rests hstate _ _ => exact absurd (hstate.symm.trans ht) hs
  | released hi _ _ _ => exact hi
  | submitted _ hstate _ => rw [hstate] at ht; cases ht

theorem RxPumpMove.pending_writer (h : RxPumpMove i s t) (hs : s.rxState = .idle)
    (ht : t.rxState = .transferPending) : (i = .armRx ∨ i = .openDevice ∨ i = .decodeStep) ∧
      ∃ es, t.trace = s.trace ++ es ++ [.submitRx t.rxXferOff t.rxXferLen] := by
  cases h with
  | rests hstate _ _ => rw [hstate, hs] at ht; cases ht
  | released _ hstate _ _ => rw [hstate] at ht; cases ht
  | submitted hfrom _ htrace =>
    rcases hfrom with ⟨-, hi⟩ | ⟨hp, -⟩
    · exact ⟨hi, htrace⟩
    · rw [hs] at hp; cases hp

theorem RxPumpMove.region_writer (h : RxPumpMove i s t)
    (hw : t.rxXferOff ≠ s.rxXferOff ∨ t.rxXferLen ≠ s.rxXferLen) :
    t.rxState = .transferPending ∧ (s.rxState = .idle ∨ CompletesRx i) := by
  cases h with
  | rests _ hoff hlen => exact absurd hw (by simp [hoff, hlen])
  | released _ _ hoff hlen => exact absurd hw (by simp [hoff, hlen])
  | submitted hfrom hstate _ => exact ⟨hstate, hfrom.imp And.left And.right⟩

/-! ### The other registers (R22, R27, R29, R31 to R36)

One lemma a register: the effects that write it are named, every other effect leaves it alone. -/

section rights
variable (h : Effect s i t)
include h

theorem Effect.isOpen_writer (hw : t.isOpen ≠ s.isOpen) : i = .openDevice ∨ i = .closeDevice := by
  cases h with
  | opens _ _ _ => exact .inl rfl
  | closes _ => exact .inr rfl
  | _ => simp at hw

theorem Effect.txBuf_writer (hw : t.txBuf ≠ s.txBuf ∨ s.txCnt < t.txCnt) : Sends i := by
  cases h with
  | queues hi _ _ _ => exact hi
  | confirmsTx _ _ _ => simp at hw; omega
  | _ => simp at hw

theorem Effect.txRd_writer (hw : t.txRd ≠ s.txRd ∨ t.txCnt < s.txCnt) : CompletesTx i ∨ i = .openDevice := by
  cases h with
  | opens _ _ _ => exact .inr rfl
  | confirmsTx _ _ _ => exact .inl ⟨_, _, rfl⟩
  | _ => simp at hw

theorem Effect.rxBuf_writer (hw : t.rxBuf ≠ s.rxBuf ∨ s.rxCnt < t.rxCnt) : CompletesRx i := by
  cases h with
  | receives _ _ _ => exact ⟨_, _, _, rfl⟩
  | decodes _ _ _ => simp at hw; omega
  | _ => simp at hw

theorem Effect.rxRd_writer (hw : t.rxRd ≠ s.rxRd ∨ t.rxCnt < s.rxCnt) : i = .decodeStep ∨ i = .openDevice := by
  cases h with
  | opens _ _ _ => exact .inr rfl
  | decodes _ _ _ => exact .inl rfl
  | _ => simp at hw

theorem Effect.taskQ_raiser (hw : s.taskQ < t.taskQ) : CompletesRx i := by
  cases h with
  | receives _ _ _ => exact ⟨_, _, _, rfl⟩
  | startsTask _ => simp at hw; omega
  | _ => simp at hw

theorem Effect.taskQ_lowerer (hw : t.taskQ < s.taskQ) : i = .runTask ∨ i = .openDevice := by
  cases h with
  | opens _ _ _ => exact .inr rfl
  | startsTask _ => exact .inl rfl
  | _ => simp at hw

theorem Effect.decodeActive_writer (hw : t.decodeActive ≠ s.decodeActive) :
    i = .runTask ∨ i = .decodeStep ∨ i = .openDevice := by
  cases h with
  | opens _ _ _ => exact .inr (.inr rfl)
  | startsTask _ => exact .inl rfl
  | endsTask _ => exact .inr (.inl rfl)
  | _ => simp at hw

theorem Effect.handlerMask_writer (hw : t.handlerMask ≠ s.handlerMask) : ∃ c p, i = .register c p := by
  cases h with
  | registers _ _ => exact ⟨_, _, rfl⟩
  | _ => simp at hw

theorem Effect.fault_writer (hw : t.fault ≠ s.fault) : i = .openDevice ∨ CompletesTx i ∨ CompletesRx i := by
  cases h with
  | faults _ hi => exact hi
  | _ => simp at hw

end rights

/-- Settles O35: the pumps' clauses are read off how each pump moved, every other clause is its register's
writer. -/
theorem registerWriteRights : Obligations.RegisterWriteRights := by
  intro i s t hexec
  have h : Effect s i t := exec_effect hexec
  have htx := h.txPumpMove
  have hrx := h.rxPumpMove
  exact ⟨h.isOpen_writer, htx.idle_writer, hrx.idle_writer, htx.pending_writer, hrx.pending_writer,
    htx.region_writer, hrx.region_writer, h.txBuf_writer, h.txRd_writer, h.rxBuf_writer, h.rxRd_writer,
    h.taskQ_raiser, h.taskQ_lowerer, h.decodeActive_writer, h.handlerMask_writer, h.fault_writer⟩

/-! ### TRACE (R38, R101, R227) -/

/-- The event is of what the operation did: a Submit of the region then in flight, a Dispatch of the decode
task to a registered cable. -/
def Recorded (i : Instr) (s t : State) : Event → Prop
  | .submitTx off len bytes => t.txState = .transferPending ∧ t.txXferOff = off ∧ t.txXferLen = len ∧
      bytes = memReadFrom .tx t.txBuf off len ∧ t.isOpen = true ∧ (s.txState = .idle ∨ CompletesTx i)
  | .submitRx off len => t.rxState = .transferPending ∧ t.rxXferOff = off ∧ t.rxXferLen = len ∧
      t.isOpen = true ∧ (s.rxState = .idle ∨ CompletesRx i)
  | .dispatch cable _ _ _ _ => (i = .decodeStep ∨ i.format = .eventPacket) ∧
      cable.toNat < s.cfg.nRx ∧ s.handlerMask.getLsbD cable.toNat = true

/-- TRACE grows by at most two different events, each of what the operation did. -/
def TraceGrows (i : Instr) (s t : State) : Prop :=
  ∃ es, t.trace = s.trace ++ es ∧ es.length ≤ 2 ∧ es.Nodup ∧ ∀ e ∈ es, Recorded i s t e

/-- A delivery appends nothing, or one Dispatch to a registered cable below N_RX (R175). -/
theorem deliver_silent_or_dispatches (s : State) (u : Unpacked) :
    (deliver s u).1.trace = s.trace ∨
    ∃ cable : Nibble, (deliver s u).1.trace = s.trace ++ [.dispatch cable u.cin u.b1 u.b2 u.b3] ∧
      cable.toNat < s.cfg.nRx ∧ s.handlerMask.getLsbD cable.toNat = true := by
  simp only [deliver_fst, deliveredEvents]
  split
  · next hguard => exact .inr ⟨_, rfl, (dispatchable_iff _ _).mp hguard⟩
  · exact .inl (List.append_nil _)

namespace TraceGrows

theorem silent (h : t.trace = s.trace) : TraceGrows i s t :=
  ⟨[], by simp [h]⟩

theorem by_one {e : Event} (h : t.trace = s.trace ++ [e]) (he : Recorded i s t e) : TraceGrows i s t :=
  ⟨[e], h, by simp, List.nodup_singleton e, by simpa using he⟩

theorem by_two {e e' : Event} (h : t.trace = s.trace ++ [e, e']) (hne : e ≠ e') (he : Recorded i s t e)
    (he' : Recorded i s t e') : TraceGrows i s t :=
  ⟨[e, e'], h, by simp, by simpa using hne, by simp [he, he']⟩

theorem of_armTx {u : State} {r : Option Reply} (htrace : u.trace = s.trace)
    (hfrom : u.txState = .idle → s.txState = .idle ∨ CompletesTx i) :
    TraceGrows i s ((armTx u).1.withReply r) := by
  rcases armTx_unchanged_or_submits u with hu | ⟨ho, hidle, hpending, hsubmit⟩
  · rw [hu]; exact silent htrace
  · rw [htrace] at hsubmit
    exact by_one hsubmit ⟨hpending, rfl, rfl, rfl, armTx_isOpen.trans ho, hfrom hidle⟩

theorem of_armRx {u : State} {r : Option Reply} (htrace : u.trace = s.trace)
    (hfrom : u.rxState = .idle → s.rxState = .idle ∨ CompletesRx i) :
    TraceGrows i s ((armRx u).1.withReply r) := by
  rcases armRx_unchanged_or_submits u with hu | ⟨ho, hidle, hpending, hsubmit⟩
  · rw [hu]; exact silent htrace
  · rw [htrace] at hsubmit
    exact by_one hsubmit ⟨hpending, rfl, rfl, armRx_isOpen.trans ho, hfrom hidle⟩

theorem of_decode {u : Unpacked} {r : Option Reply} :
    TraceGrows .decodeStep s ((armRx (deliver s.consumeGroup u).1).1.withReply r) := by
  rcases deliver_silent_or_dispatches s.consumeGroup u with hsilent | ⟨cable, hdispatch, hguard⟩
  · exact of_armRx hsilent (by simpa using .inl)
  · have hrecorded : ∀ t, Recorded .decodeStep s t (.dispatch cable u.cin u.b1 u.b2 u.b3) :=
      fun _ => ⟨.inl rfl, hguard⟩
    rcases armRx_unchanged_or_submits (deliver s.consumeGroup u).1 with hu | ⟨ho, hidle, hpending, hsubmit⟩
    · rw [hu]; exact by_one hdispatch (hrecorded _)
    · rw [hdispatch, List.append_assoc] at hsubmit
      refine by_two hsubmit (by simp) (hrecorded _) ⟨hpending, rfl, rfl, armRx_isOpen.trans ho, .inl ?_⟩
      simpa using hidle

theorem of_delivery {u : Unpacked} {r : Option Reply} (hi : i.format = .eventPacket) :
    TraceGrows i s ((deliver s u).1.withReply r) := by
  rcases deliver_silent_or_dispatches s u with hsilent | ⟨cable, hdispatch, hguard⟩
  · exact silent hsilent
  · exact by_one hdispatch ⟨.inr hi, hguard⟩

end TraceGrows

theorem Effect.traceGrows (h : Effect s i t) : TraceGrows i s t := by
  cases h with
  | opens _ _ _ => exact .of_armRx rfl .inl
  | armsTx _ => exact .of_armTx rfl .inl
  | armsRx _ => exact .of_armRx rfl .inl
  | releasesTx _ _ => exact .of_armTx rfl fun _ => .inr ⟨_, _, rfl⟩
  | confirmsTx _ _ _ => exact .of_armTx rfl fun _ => .inr ⟨_, _, rfl⟩
  | releasesRx _ _ => exact .of_armRx rfl fun _ => .inr ⟨_, _, _, rfl⟩
  | receives _ _ _ => exact .of_armRx rfl fun _ => .inr ⟨_, _, _, rfl⟩
  | endsTask _ => exact .of_armRx rfl .inl
  | decodes _ _ _ => exact .of_decode
  | queues _ _ _ _ => exact .of_armTx rfl .inl
  | delivers hi _ _ => exact .of_delivery hi
  | _ => exact .silent rfl

/-- Settles O46: each effect appends the events of its delivery and its arm attempt and no other. -/
theorem traceRecordsWhatHappens : Obligations.TraceRecordsWhatHappens := by
  intro i s t hexec
  obtain ⟨es, htrace, hlength, hnodup, hrecorded⟩ := (exec_effect hexec).traceGrows
  refine ⟨es, htrace, hlength, hnodup, fun e he => ?_⟩
  have hevent := hrecorded e he
  cases e <;> exact hevent

end Sys2Proof.Machine

end

/-! # Dead ring bytes are unreadable (`10_state.md` R43)

A simulation: from states that differ in dead bytes only, each register write, arm attempt and delivery gives
such states again, so each meaning does. The live bytes an operation reads are the transmit region it submits
(R108) and the group it decodes (R173). -/

section

namespace Sys2Proof.Machine

variable {s s' t t' : State}

/-! ### The writes -/

/-- What decides which ring bytes live, and the storages. -/
@[simp] def State.liveSide (s : State) : Bool × Config × Nat × Nat × Nat × Nat × Memory × Memory :=
  (s.isOpen, s.cfg, s.txRd, s.txCnt, s.rxRd, s.rxCnt, s.txBuf, s.rxBuf)

/-- Two conditionals that take the same branch are related when their branches are. -/
theorem rel_ite {α : Type} {R : α → α → Prop} {x x' y y' : α} {c c' : Prop} [Decidable c] [Decidable c']
    (hc : c ↔ c') (hthen : c → R x x') (helse : ¬c → R y y') :
    R (if c then x else y) (if c' then x' else y') := by
  by_cases h : c
  · rw [if_pos h, if_pos (hc.mp h)]; exact hthen h
  · rw [if_neg h, if_neg (mt hc.mpr h)]; exact helse h

/-- The same result code, and states that differ in dead bytes only. -/
def SameResult (x x' : State × Result) : Prop := SameButDeadBytes x.1 x'.1 ∧ x'.2 = x.2

namespace SameButDeadBytes

theorem exists_bufs (h : SameButDeadBytes s s') : ∃ m n, s' = { s with txBuf := m, rxBuf := n } :=
  ⟨_, _, h.same⟩

/-- A write of other registers, made in both states, keeps them alike. -/
theorem of_liveSide (h : SameButDeadBytes s s') (hsame : t' = { t with txBuf := t'.txBuf, rxBuf := t'.rxBuf })
    (ht : t.liveSide = s.liveSide) (ht' : t'.liveSide = s'.liveSide) : SameButDeadBytes t t' := by
  simp only [State.liveSide, Prod.mk.injEq] at ht ht'
  obtain ⟨hopen, hcfg, htxRd, htxCnt, hrxRd, hrxCnt, htxBuf, hrxBuf⟩ := ht
  obtain ⟨-, -, -, -, -, -, htxBuf', hrxBuf'⟩ := ht'
  refine ⟨hsame, ?_, ?_⟩
  · rw [hopen, hcfg, htxRd, htxCnt, htxBuf, htxBuf']; exact h.tx
  · rw [hopen, hcfg, hrxRd, hrxCnt, hrxBuf, hrxBuf']; exact h.rx

theorem withReply (h : SameButDeadBytes s s') (r : Option Reply) :
    SameButDeadBytes (s.withReply r) (s'.withReply r) :=
  h.of_liveSide (congrArg (·.withReply r) h.same) rfl rfl

theorem withFault (h : SameButDeadBytes s s') (f : FaultName) :
    SameButDeadBytes (s.withFault f) (s'.withFault f) :=
  h.of_liveSide (congrArg (·.withFault f) h.same) rfl rfl

theorem txToIdle (h : SameButDeadBytes s s') : SameButDeadBytes s.txToIdle s'.txToIdle :=
  h.of_liveSide (congrArg State.txToIdle h.same) rfl rfl

theorem rxToIdle (h : SameButDeadBytes s s') : SameButDeadBytes s.rxToIdle s'.rxToIdle :=
  h.of_liveSide (congrArg State.rxToIdle h.same) rfl rfl

theorem startTask (h : SameButDeadBytes s s') : SameButDeadBytes s.startTask s'.startTask :=
  h.of_liveSide (congrArg State.startTask h.same) rfl rfl

theorem endTask (h : SameButDeadBytes s s') : SameButDeadBytes s.endTask s'.endTask :=
  h.of_liveSide (congrArg State.endTask h.same) rfl rfl

theorem setHandler (h : SameButDeadBytes s s') (cable : Nat) (present : Bool) :
    SameButDeadBytes (s.setHandler cable present) (s'.setHandler cable present) :=
  h.of_liveSide (congrArg (·.setHandler cable present) h.same) rfl rfl

/-- While closed no byte lives. -/
theorem close (h : SameButDeadBytes s s') : SameButDeadBytes (s.setOpen false) (s'.setOpen false) where
  same := congrArg (·.setOpen false) h.same
  tx := by intro ho; cases ho
  rx := by intro ho; cases ho

/-- In empty rings no byte lives. -/
theorem restart (h : SameButDeadBytes s s') :
    SameButDeadBytes (s.restartRings.setOpen true) (s'.restartRings.setOpen true) where
  same := congrArg (·.restartRings.setOpen true) h.same
  tx := fun _ _ hi => absurd hi (Nat.not_lt_zero _)
  rx := fun _ _ hi => absurd hi (Nat.not_lt_zero _)

theorem advanceTx (h : SameButDeadBytes s s') (n : Nat) : SameButDeadBytes (s.advanceTx n) (s'.advanceTx n) where
  same := congrArg (·.advanceTx n) h.same
  tx := by
    intro ho i hi
    simp only [State.advanceTx_txRd, State.advanceTx_txCnt, State.advanceTx_cfg, State.advanceTx_txBuf] at hi ⊢
    rw [advance_index]
    exact h.tx ho _ (by omega)
  rx := h.rx

theorem consumeGroup (h : SameButDeadBytes s s') : SameButDeadBytes s.consumeGroup s'.consumeGroup where
  same := congrArg State.consumeGroup h.same
  tx := h.tx
  rx := by
    intro ho i hi
    simp only [State.consumeGroup_rxRd, State.consumeGroup_rxCnt, State.consumeGroup_cfg,
      State.consumeGroup_rxBuf] at hi ⊢
    rw [advance_index]
    exact h.rx ho _ (by omega)

/-- The bytes that come alive are the packet's, in both states. -/
theorem queuePacket (h : SameButDeadBytes s s') (hf : 4 ≤ s.txFree) (p : Packet) :
    SameButDeadBytes (s.queuePacket p) (s'.queuePacket p) := by
  obtain ⟨m, n, rfl⟩ := h.exists_bufs
  refine ⟨rfl, fun ho i hi => ?_, h.rx⟩
  have hi' : i < s.txCnt + 4 := hi
  by_cases hlt : i < s.txCnt
  · have hkept := queuePacket_live (p := p) hf hlt
    have hkept' := queuePacket_live (s := { s with txBuf := m, rxBuf := n }) (p := p) hf hlt
    exact hkept'.trans ((h.tx ho i hlt).trans hkept.symm)
  · obtain ⟨j, rfl⟩ := Nat.exists_eq_add_of_le (Nat.not_lt.mp hlt)
    obtain ⟨v, hv⟩ := packetList_get (p := p) (i := j) (by omega)
    have hnew := queuePacket_stored (s := s) hv
    have hnew' := queuePacket_stored (s := { s with txBuf := m, rxBuf := n }) hv
    simp only [Nat.add_assoc] at hnew hnew'
    exact hnew'.trans hnew.symm

/-- The bytes that come alive are the received ones, in both states. -/
theorem receive (h : SameButDeadBytes s s') (hs : RxRingInv s) (hp : s.rxState = .transferPending)
    {data : List Byte} (hl : data.length ≤ s.rxXferLen) :
    SameButDeadBytes (s.rxToIdle.receive data.length data) (s'.rxToIdle.receive data.length data) := by
  obtain ⟨m, n, rfl⟩ := h.exists_bufs
  refine ⟨rfl, h.tx, fun ho i hi => ?_⟩
  have hi' : i < s.rxCnt + data.length := hi
  show storedByte (memWriteFrom n s.rxXferOff data) _ = storedByte (memWriteFrom s.rxBuf s.rxXferOff data) _
  rw [storedByte_memWriteFrom, storedByte_memWriteFrom]
  split
  · rfl
  · next hout =>
    refine h.rx ho i (Nat.lt_of_not_le fun hge => hout ?_)
    have hindex := hs.region_index hp (i := i - s.rxCnt) (by omega)
    rw [Nat.add_sub_cancel' hge] at hindex
    show s.rxXferOff ≤ (s.rxRd + i) % s.cfg.cRx ∧ (s.rxRd + i) % s.cfg.cRx < s.rxXferOff + data.length
    omega

theorem deliver (h : SameButDeadBytes s s') (u : Unpacked) :
    SameResult (deliver s u) (deliver s' u) := by
  obtain ⟨m, n, rfl⟩ := h.exists_bufs
  refine ⟨?_, ?_⟩
  · rw [deliver_fst, deliver_fst]
    exact h.of_liveSide rfl rfl rfl
  · rw [deliver_snd, deliver_snd]
    rfl

/-! ### The bytes that are read -/

/-- A transmit region lies in the live region and does not wrap (R106). -/
theorem txRegion_bytes (h : SameButDeadBytes s s') (ho : s.isOpen = true) {n : Nat} (hc : n ≤ s.txCnt)
    (hcap : n ≤ s.cfg.cTx - s.txRd) :
    memReadFrom .tx s'.txBuf s.txRd n = memReadFrom .tx s.txBuf s.txRd n := by
  refine memReadFrom_congr fun i hi => ?_
  have hlive := h.tx ho i (by omega)
  rwa [Nat.mod_eq_of_lt (by omega)] at hlive

theorem submitTxRegion (h : SameButDeadBytes s s') (ho : s.isOpen = true) :
    SameButDeadBytes (submitTxRegion s) (submitTxRegion s') := by
  have hread := h.txRegion_bytes ho (n := (txRegion s).2) (min_le_left _ _)
    ((min_le_right _ _).trans (min_le_left _ _))
  obtain ⟨m, n, rfl⟩ := h.exists_bufs
  refine h.of_liveSide ?_ rfl rfl
  exact congrArg (fun bytes => (State.submitTx { s with txBuf := m, rxBuf := n } s.txRd (txRegion s).2).emit
    (.submitTx s.txRd (txRegion s).2 bytes)) hread

/-- The group at the receive read cursor lives when a whole one was received (R173). -/
theorem headPacket (h : SameButDeadBytes s s') (ho : s.isOpen = true) (hc : 4 ≤ s.rxCnt) :
    headPacket s' = headPacket s := by
  obtain ⟨m, n, rfl⟩ := h.exists_bufs
  have hread (i : Nat) (hi : i < 4) :
      memRead .rx n ((s.rxRd + i) % s.cfg.cRx) = memRead .rx s.rxBuf ((s.rxRd + i) % s.cfg.cRx) :=
    memRead_eq_of_storedByte (h.rx ho i (by omega))
  simp only [Machine.headPacket, ringPacket, Packet.mk.injEq]
  exact ⟨hread 0 (by omega), hread 1 (by omega), hread 2 (by omega), hread 3 (by omega)⟩

/-! ### Arm attempts and sends -/

theorem armTx (h : SameButDeadBytes s s') : SameResult (armTx s) (armTx s') := by
  obtain ⟨m, n, rfl⟩ := h.exists_bufs
  rcases armTx_cases s with ⟨ho, hs⟩ | ⟨ho, hp, hs⟩ | ⟨ho, hi, hc, hs⟩ | ⟨ho, hi, hc, hs⟩
  · rw [hs, armTx_closed (by exact ho)]; exact ⟨h, rfl⟩
  · rw [hs, armTx_pending (by exact ho) (by exact hp)]; exact ⟨h, rfl⟩
  · rw [hs, armTx_empty (by exact ho) (by exact hi) (by exact hc)]; exact ⟨h, rfl⟩
  · rw [hs, armTx_submits (by exact ho) (by exact hi) (by exact hc)]; exact ⟨h.submitTxRegion ho, rfl⟩

theorem armRx (h : SameButDeadBytes s s') : SameResult (armRx s) (armRx s') := by
  obtain ⟨m, n, rfl⟩ := h.exists_bufs
  rcases armRx_cases s with ⟨ho, hs⟩ | ⟨ho, hp, hs⟩ | ⟨ho, hi, hc, hs⟩ | ⟨ho, hi, hc, hs⟩
  · rw [hs, armRx_closed (by exact ho)]; exact ⟨h, rfl⟩
  · rw [hs, armRx_pending (by exact ho) (by exact hp)]; exact ⟨h, rfl⟩
  · rw [hs, armRx_full (by exact ho) (by exact hi) (by exact hc)]; exact ⟨h, rfl⟩
  · rw [hs, armRx_submits (by exact ho) (by exact hi) (by exact hc)]
    exact ⟨h.of_liveSide rfl rfl rfl, rfl⟩

end SameButDeadBytes

/-! ### The meanings -/

/-- Where the first outcome is a next state, so is the second, and they differ in dead bytes only. -/
def Simulates (o o' : StepOutcome) : Prop :=
  ∀ t, o = .next t → ∃ t', o' = .next t' ∧ SameButDeadBytes t t'

namespace Simulates

variable {o o' : StepOutcome}

theorem next (h : SameButDeadBytes s s') : Simulates (.next s) (.next s') := by
  rintro t ⟨⟩
  exact ⟨s', rfl, h⟩

theorem finish (h : SameButDeadBytes s s') {r r' : Reply} (hr : r' = r) :
    Simulates (finish s r) (finish s' r') :=
  next (hr ▸ h.withReply _)

theorem raiseFault (h : SameButDeadBytes s s') (f : FaultName) :
    Simulates (raiseFault s f) (raiseFault s' f) :=
  next ((h.withFault f).withReply none)

theorem finishCode {x x' : State × Result} (h : SameResult x x') :
    Simulates (finishCode x) (finishCode x') :=
  finish h.1 (congrArg Reply.code h.2)

/-- A refusal asks nothing of the other side. -/
theorem refused (r : Refusal) : Simulates (.refused r) o' := by
  intro t h
  cases h

/-- A stop asks nothing of the other side. -/
theorem fault (f : Fault) : Simulates (.fault f) o' := by
  intro t h
  cases h

theorem unlessFaulted (hf : s'.fault = s.fault) (h : Simulates o o') :
    Simulates (unlessFaulted s o) (unlessFaulted s' o') := by
  intro t ht
  obtain ⟨hnone, ho⟩ := unlessFaulted_next.mp ht
  rw [unlessFaulted_of_none (hf.trans hnone)]
  exact h t ho

end Simulates

theorem execOpen_simulates (h : SameButDeadBytes s s') : Simulates (execOpen s) (execOpen s') := by
  obtain ⟨m, n, rfl⟩ := h.exists_bufs
  refine .unlessFaulted rfl (rel_ite .rfl (fun _ => .raiseFault h _) fun _ => rel_ite .rfl (fun _ => .raiseFault h _) ?_)
  intro _
  exact .finish h.restart.armTx.1.armRx.1 rfl

theorem settleTx_same (h : SameButDeadBytes s s') (status length : Nat) :
    SameButDeadBytes (settleTx s status length) (settleTx s' status length) := by
  unfold settleTx
  split
  · exact h.advanceTx length
  · exact h

theorem execCompleteTx_simulates (h : SameButDeadBytes s s') (status length : Nat) :
    Simulates (execCompleteTx status length s) (execCompleteTx status length s') := by
  obtain ⟨m, n, rfl⟩ := h.exists_bufs
  refine .unlessFaulted rfl (rel_ite .rfl (fun _ => .raiseFault h _) fun _ =>
    rel_ite .rfl (fun _ => .raiseFault h _) fun _ => rel_ite .rfl (fun _ => .finish h.txToIdle rfl) ?_)
  intro _
  exact .finish (settleTx_same h.txToIdle status length).armTx.1 rfl

theorem PumpState.ne_idle_iff {p : PumpState} : p ≠ .idle ↔ p = .transferPending := by
  cases p <;> decide

theorem execCompleteRx_simulates (h : SameButDeadBytes s s') (hs : RxRingInv s) (status length : Nat)
    (data : List Byte) :
    Simulates (execCompleteRx status length data s) (execCompleteRx status length data s') := by
  obtain ⟨m, n, rfl⟩ := h.exists_bufs
  refine .unlessFaulted rfl (rel_ite .rfl (fun _ => .refused _) fun hdata => ?_)
  refine rel_ite .rfl (fun _ => .raiseFault h _) fun hpending => ?_
  refine rel_ite .rfl (fun _ => .raiseFault h _) fun hlen => ?_
  refine rel_ite .rfl (fun _ => .finish h.rxToIdle rfl) fun hopen => ?_
  refine rel_ite .rfl (fun _ => .fault _) fun _ => ?_
  have hp : s.rxState = .transferPending := PumpState.ne_idle_iff.mp hpending
  refine .finish (SameButDeadBytes.armRx ?_).1 rfl
  by_cases hstatus : status = 0
  · obtain rfl : data.length = length := not_not.mp hdata
    have hl : data.length ≤ s.rxXferLen :=
      Nat.not_lt.mp fun hlt => hlen ⟨by simpa using hopen, hstatus, hlt⟩
    simpa only [settleRx, if_pos hstatus] using h.receive hs hp hl
  · simpa only [settleRx, if_neg hstatus] using h.rxToIdle

theorem execRunTask_simulates (h : SameButDeadBytes s s') : Simulates (execRunTask s) (execRunTask s') := by
  obtain ⟨m, n, rfl⟩ := h.exists_bufs
  exact .unlessFaulted rfl (rel_ite .rfl (fun _ => .finish h rfl) fun _ =>
    rel_ite .rfl (fun _ => .finish h rfl) fun _ => .finish h.startTask rfl)

theorem execDecodeStep_simulates (h : SameButDeadBytes s s') :
    Simulates (execDecodeStep s) (execDecodeStep s') := by
  obtain ⟨m, n, rfl⟩ := h.exists_bufs
  refine .unlessFaulted rfl (rel_ite .rfl (fun _ => .finish h rfl) fun _ =>
    rel_ite .rfl (fun _ => .finish h.endTask rfl) fun hopen =>
    rel_ite .rfl (fun _ => .finish h.endTask.armRx.1 rfl) fun hcount => ?_)
  rw [h.headPacket (by simpa using hopen) (Nat.not_lt.mp hcount)]
  obtain ⟨hstate, hresult⟩ := h.consumeGroup.deliver (unpack (headPacket s))
  exact .finish hstate.armRx.1 (congrArg Reply.code hresult)

theorem sendMessage_same (h : SameButDeadBytes s s') (cable : Nat) (msg : List Byte) :
    SameResult (sendMessage s cable msg) (sendMessage s' cable msg) := by
  obtain ⟨m, n, rfl⟩ := h.exists_bufs
  have unchanged (r : Result) : SameResult (s, r) ({ s with txBuf := m, rxBuf := n }, r) := ⟨h, rfl⟩
  unfold sendMessage
  refine rel_ite .rfl (fun _ => unchanged _) fun _ => ?_
  cases messageOf msg with
  | none => exact unchanged _
  | some msg =>
    refine rel_ite .rfl (fun _ => unchanged _) fun _ => rel_ite .rfl (fun _ => unchanged _) fun hfree => ?_
    exact ⟨(h.queuePacket (Nat.not_lt.mp hfree) _).armTx.1, rfl⟩

theorem sendHelper_simulates (h : SameButDeadBytes s s') (base : Byte) (cable channel : Nat) (b1 b2 : Byte) :
    Simulates (sendHelper base cable channel b1 b2 s) (sendHelper base cable channel b1 b2 s') := by
  obtain ⟨m, n, rfl⟩ := h.exists_bufs
  exact .unlessFaulted rfl (rel_ite .rfl (fun _ => .finish h rfl) fun _ => .finishCode (sendMessage_same h _ _))

theorem execRegister_simulates (h : SameButDeadBytes s s') (cable : Nat) (present : Bool) :
    Simulates (execRegister cable present s) (execRegister cable present s') := by
  obtain ⟨m, n, rfl⟩ := h.exists_bufs
  exact .unlessFaulted rfl (rel_ite .rfl (fun _ => .finish h rfl) fun _ => .finish (h.setHandler _ _) rfl)

theorem exec_simulates (h : SameButDeadBytes s s') (hs : Inv s) (i : Instr) : Simulates (exec i s) (exec i s') := by
  have hfault : s'.fault = s.fault := by rw [h.same]
  have hcfg : s'.cfg = s.cfg := by rw [h.same]
  cases hi : i.format with
  | eventPacket =>
    obtain ⟨u, hu, -⟩ := exec_packet hi
    rw [hu, hu]
    exact .unlessFaulted hfault (.finishCode (h.deliver u))
  | op =>
    cases i with
    | openDevice => exact execOpen_simulates h
    | closeDevice => exact .unlessFaulted hfault (.finish h.close rfl)
    | armTx => exact .unlessFaulted hfault (.finishCode h.armTx)
    | armRx => exact .unlessFaulted hfault (.finishCode h.armRx)
    | completeTx => exact execCompleteTx_simulates h _ _
    | completeRx => exact execCompleteRx_simulates h hs.rx _ _ _
    | pack => exact .unlessFaulted hfault (.finish h (by rw [hcfg]))
    | encode => exact .unlessFaulted hfault (.finish h (by rw [hcfg]))
    | decodePacket => exact .unlessFaulted hfault (.finish h rfl)
    | runTask => exact execRunTask_simulates h
    | decodeStep => exact execDecodeStep_simulates h
    | send => exact .unlessFaulted hfault (.finishCode (sendMessage_same h _ _))
    | noteOn | noteOff | controlChange => exact sendHelper_simulates h _ _ _ _ _
    | register => exact execRegister_simulates h _ _
    | _ => cases hi

/-- Settles O51: every meaning takes the same branch in both states and makes the same writes, reading live
bytes only. -/
theorem deadBytesAreUnreadable : Obligations.DeadBytesAreUnreadable := by
  intro i s s' t hs h hexec
  exact exec_simulates h hs i t hexec

end Sys2Proof.Machine

end

/-! # The ring memories (`20_memory.md`)

The statements of the family `20_memory.md`. R63 and R66 are read off `Effect`. That each ring is a queue
(R51) is read off its contents: an advance drops from their front, a stored packet or delivery appends, and
an operation that does neither leaves them alone, by the write rights of their registers. -/

section

namespace Sys2Proof.Machine

variable {i : Instr} {s t : State}

/-! ### The bytes in flight (R66) -/

@[simp] theorem lastSubmitTx_append_submitTx (tr : List Event) (off len : Nat) (bytes : List Byte) :
    lastSubmitTx (tr ++ [.submitTx off len bytes]) = some (off, len, bytes) := by
  simp [lastSubmitTx, submitTxOf]

theorem lastSubmitTx_append_other (tr : List Event) {e : Event} (he : submitTxOf e = none) :
    lastSubmitTx (tr ++ [e]) = lastSubmitTx tr := by
  simp [lastSubmitTx, he]

/-- The last transmit submit of a run of events, if it has one, and that of the trace before it otherwise. -/
theorem lastSubmitTx_append (tr es : List Event) :
    lastSubmitTx (tr ++ es) = lastSubmitTx tr ∨
      ∃ off len bytes, .submitTx off len bytes ∈ es ∧ lastSubmitTx (tr ++ es) = some (off, len, bytes) := by
  induction es using List.reverseRecOn with
  | nil => exact .inl (by rw [List.append_nil])
  | append_singleton es e ih =>
    rw [← List.append_assoc]
    cases e with
    | submitTx off len bytes => exact .inr ⟨off, len, bytes, by simp, lastSubmitTx_append_submitTx _ _ _ _⟩
    | submitRx | dispatch =>
      rw [lastSubmitTx_append_other _ rfl]
      exact ih.imp_right fun ⟨off, len, bytes, he, h⟩ => ⟨off, len, bytes, List.mem_append_left _ he, h⟩

/-- A transmit submit that an operation records is of the region then in flight. -/
theorem TraceGrows.lastSubmitTx (h : TraceGrows i s t) :
    lastSubmitTx t.trace = lastSubmitTx s.trace ∨
      lastSubmitTx t.trace =
        some (t.txXferOff, t.txXferLen, memReadFrom .tx t.txBuf t.txXferOff t.txXferLen) := by
  obtain ⟨es, htrace, -, -, hrecorded⟩ := h
  rw [htrace]
  refine (lastSubmitTx_append s.trace es).imp_right fun ⟨off, len, bytes, he, hlast⟩ => ?_
  obtain ⟨-, rfl, rfl, rfl, -⟩ := hrecorded _ he
  exact hlast

/-- No operation overwrites a queued byte (R66, R69): a packet is stored in free bytes. -/
theorem Effect.keeps_txBuf_live (h : Effect s i t) {j : Nat} (hj : j < s.txCnt) :
    storedByte t.txBuf ((s.txRd + j) % s.cfg.cTx) = storedByte s.txBuf ((s.txRd + j) % s.cfg.cTx) := by
  cases h with
  | queues _ hf p _ => simpa using queuePacket_live (p := p) hf hj
  | _ => simp

/-- The region in flight lies in the queued bytes and does not wrap (R37, R106). -/
theorem Effect.keeps_region_bytes (h : Effect s i t) (hs : TxRingInv s) (hp : s.txState = .transferPending) :
    memReadFrom .tx t.txBuf s.txXferOff s.txXferLen = memReadFrom .tx s.txBuf s.txXferOff s.txXferLen := by
  obtain ⟨hoff, -, hlen, hcap⟩ := hs.in_flight hp
  refine memReadFrom_congr fun j hj => ?_
  have hlive := h.keeps_txBuf_live (j := j) (by omega)
  rwa [Nat.mod_eq_of_lt (by omega), ← hoff] at hlive

/-- A pump that submits records its region's bytes; one that rests keeps its region, and with it the bytes. -/
theorem Effect.keeps_inFlightBytes (h : Effect s i t) (hs : TxRingInv s) (hb : InFlightBytes s) :
    InFlightBytes t := by
  intro ht
  cases h.txPumpMove with
  | rests hstate hoff hlen =>
    have hp : s.txState = .transferPending := hstate.symm.trans ht
    rcases h.traceGrows.lastSubmitTx with hkept | hsubmitted
    · rw [hkept, hoff, hlen, h.keeps_region_bytes hs hp]
      exact hb hp
    · exact hsubmitted
  | released _ hstate _ _ => rw [hstate] at ht; cases ht
  | submitted _ _ htrace => rw [htrace, lastSubmitTx_append_submitTx]

/-- Settles O39: a step runs one operation with its request taken, and every effect of an operation keeps
the bytes in flight. -/
theorem stepKeepsInFlightBytes : Obligations.StepKeepsInFlightBytes := by
  intro s t hs hb h
  obtain ⟨_, rs, _, -, -, -, -, hexec⟩ := step_next h
  exact (exec_effect hexec).keeps_inFlightBytes (hs.withRequests rs).tx hb

/-! ### The cursors (R63) -/

theorem Effect.txRd_confirmed (h : Effect s i t) (hi : i ≠ .openDevice)
    (hw : t.txRd ≠ s.txRd ∨ t.txCnt < s.txCnt) :
    ∃ length, i = .completeTx 0 length ∧ s.txState = .transferPending ∧ length ≤ s.txXferLen ∧
      t.txRd = (s.txRd + length) % s.cfg.cTx ∧ t.txCnt = s.txCnt - length := by
  cases h with
  | opens _ _ _ => exact absurd rfl hi
  | confirmsTx hp hl _ => exact ⟨_, rfl, hp, hl, by simp, by simp⟩
  | _ => simp at hw

theorem Effect.rxCnt_received (h : Effect s i t) (hw : s.rxCnt < t.rxCnt) :
    ∃ length data, i = .completeRx 0 length data ∧ s.rxState = .transferPending ∧
      length ≤ s.rxXferLen ∧ t.rxCnt = s.rxCnt + length := by
  cases h with
  | receives hp hl _ => exact ⟨_, _, rfl, hp, hl, by simp⟩
  | decodes _ _ _ => simp at hw; omega
  | _ => simp at hw

/-- Settles O24: of the effects, only a confirmed transmit and a receive move these cursors so. -/
theorem cursorsFollowConfirmedBytes : Obligations.CursorsFollowConfirmedBytes := by
  intro i s t hexec hi
  have h : Effect s i t := exec_effect hexec
  exact ⟨h.txRd_confirmed hi, h.rxCnt_received⟩

end Sys2Proof.Machine

end

/-! # The rings are queues (`20_memory.md` R51, R68, R69) -/

section

namespace Sys2Proof.Machine

variable {i : Instr} {s t : State}

/-- An OPEN that raises no fault leaves both rings empty (R104). -/
theorem execOpen_empties_rings (h : execOpen s = .next t) (hf : t.fault = none) :
    t.txContents = [] ∧ t.rxContents = [] := by
  rcases execOpen_next h with ⟨-, rfl⟩ | ⟨-, -, rfl⟩ | ⟨-, -, -, rfl⟩
  · cases hf
  · cases hf
  · exact ⟨rfl, rfl⟩

/-! ### The transmit ring -/

/-- The queued bytes are read from the transmit ring's registers only. -/
theorem txContents_congr (hcfg : t.cfg = s.cfg) (hbuf : t.txBuf = s.txBuf) (hrd : t.txRd = s.txRd)
    (hcnt : t.txCnt = s.txCnt) : t.txContents = s.txContents := by
  simp only [State.txContents, hcfg, hbuf, hrd, hcnt]

@[simp] theorem txContents_withReply (r : Option Reply) : (s.withReply r).txContents = s.txContents := rfl

@[simp] theorem txContents_txToIdle : s.txToIdle.txContents = s.txContents := rfl

@[simp] theorem txContents_armTx : (armTx s).1.txContents = s.txContents :=
  txContents_congr armTx_cfg armTx_txBuf armTx_txRd armTx_txCnt

@[simp] theorem txContents_advanceTx (n : Nat) : (s.advanceTx n).txContents = s.txContents.drop n :=
  ringBytes_drop _ _ _ _ _ _

/-- A packet stored at the write cursor comes at the back (R69, R194). -/
theorem txContents_queuePacket (h : 4 ≤ s.txFree) (p : Packet) :
    (s.queuePacket p).txContents = s.txContents ++ packetList p := by
  refine ringBytes_append (vs := packetList p) (fun j hj => queuePacket_live h hj) fun j v hv => ?_
  rw [← Nat.add_assoc]
  exact queuePacket_stored hv

/-- An operation that neither opens, completes a transmit nor sends leaves the queued bytes alone. -/
theorem exec_keeps_txContents (hexec : exec i s = .next t) (hopen : i ≠ .openDevice)
    (hcomplete : ¬CompletesTx i) (hsend : ¬Sends i) : t.txContents = s.txContents := by
  have h : Effect s i t := exec_effect hexec
  have hback := mt h.txBuf_writer hsend
  have hfront := mt h.txRd_writer (not_or.mpr ⟨hcomplete, hopen⟩)
  push Not at hback hfront
  exact txContents_congr (exec_keeps_cfg hexec) hback.1 hfront.1 (Nat.le_antisymm hback.2 hfront.2)

theorem confirmedBytes_completeTx (s : State) (status length : Nat) :
    confirmedBytes s (.completeTx status length) = if status = 0 ∧ s.isOpen = true then length else 0 := by
  cases status <;> simp [confirmedBytes]

theorem execCompleteTx_txContents {status length : Nat} (h : execCompleteTx status length s = .next t)
    (hf : t.fault = none) :
    t.txContents = s.txContents.drop (confirmedBytes s (.completeTx status length)) := by
  rw [confirmedBytes_completeTx]
  rcases execCompleteTx_next h with
    ⟨-, rfl⟩ | ⟨-, -, -, -, rfl⟩ | ⟨-, ho, rfl⟩ | ⟨-, ho, hst, -, rfl⟩ | ⟨-, -, hst, rfl⟩
  · cases hf
  · cases hf
  · simp [ho]
  · simp [ho, hst]
  · simp [hst]

theorem execSend_txContents {cable : Nat} {msg : List Byte} (h : execSend cable msg s = .next t) :
    t.txContents = s.txContents ++
      if t.reply = some (.code .ok) then sentBytes s.cfg (.send cable msg) else [] := by
  rcases execSend_next h with ⟨r, hr, rfl⟩ | ⟨m, hm, -, -, hfree, rfl⟩
  · simp [hr]
  · simp [txContents_queuePacket hfree, sentBytes, hm]

/-- A helper queues its three-byte message with the CIN of its category (R197 to R200). -/
theorem sendHelper_txContents {base : Nat} (hbase : base = 0x80 ∨ base = 0x90 ∨ base = 0xB0)
    {cable channel : Nat} {b1 b2 : Byte}
    (h : sendHelper (BitVec.ofNat 8 base) cable channel b1 b2 s = .next t) :
    t.txContents = s.txContents ++ if t.reply = some (.code .ok) then
      packetList (pack s.cfg (cableNibble cable) (BitVec.ofNat 4 (base / 16))
        (.three (statusByte (BitVec.ofNat 8 base) channel) b1 b2)) else [] := by
  rcases sendHelper_next h with ⟨r, hr, rfl⟩ | ⟨hchannel, -, -, hfree, rfl⟩
  · simp [hr]
  · have hcin : cinOf (.three (statusByte (BitVec.ofNat 8 base) channel) b1 b2) =
        BitVec.ofNat 4 (base / 16) := by
      rw [statusByte_eq hbase hchannel, cinOf_helper hbase hchannel]
    simp [txContents_queuePacket hfree, hcin]

/-- Settles O49: OPEN empties the ring, a completion drops from its front, a send appends, and every other
operation leaves it alone. -/
theorem transmitRingIsFifo : Obligations.TransmitRingIsFifo := by
  intro i s t hexec hf
  cases i with
  | openDevice => exact (execOpen_empties_rings hexec hf).1
  | completeTx => simpa [sentBytes] using execCompleteTx_txContents hexec hf
  | send => exact execSend_txContents hexec
  | noteOn => exact sendHelper_txContents (.inr (.inl rfl)) hexec
  | noteOff => exact sendHelper_txContents (.inl rfl) hexec
  | controlChange => exact sendHelper_txContents (.inr (.inr rfl)) hexec
  | _ =>
    have hkept := exec_keeps_txContents hexec (by simp) (by simp [CompletesTx]) (by simp [Sends])
    simpa [sentBytes, confirmedBytes] using hkept

/-! ### The receive ring -/

/-- The received bytes are read from the receive ring's registers only. -/
theorem rxContents_congr (hcfg : t.cfg = s.cfg) (hbuf : t.rxBuf = s.rxBuf) (hrd : t.rxRd = s.rxRd)
    (hcnt : t.rxCnt = s.rxCnt) : t.rxContents = s.rxContents := by
  simp only [State.rxContents, hcfg, hbuf, hrd, hcnt]

@[simp] theorem rxContents_withReply (r : Option Reply) : (s.withReply r).rxContents = s.rxContents := rfl

@[simp] theorem rxContents_rxToIdle : s.rxToIdle.rxContents = s.rxContents := rfl

@[simp] theorem rxContents_endTask : s.endTask.rxContents = s.rxContents := rfl

@[simp] theorem rxContents_armRx : (armRx s).1.rxContents = s.rxContents :=
  rxContents_congr armRx_cfg armRx_rxBuf armRx_rxRd armRx_rxCnt

@[simp] theorem rxContents_deliver (u : Unpacked) : (deliver s u).1.rxContents = s.rxContents := by
  rw [deliver_fst]; rfl

@[simp] theorem rxContents_consumeGroup : s.consumeGroup.rxContents = s.rxContents.drop 4 :=
  ringBytes_drop _ _ _ _ _ _

/-- Bytes delivered into the offered region come at the back (R68, R117). -/
theorem RxRingInv.rxContents_receive (hs : RxRingInv s) (hp : s.rxState = .transferPending) {data : List Byte}
    (hl : data.length ≤ s.rxXferLen) :
    (s.rxToIdle.receive data.length data).rxContents = s.rxContents ++ data := by
  refine ringBytes_append (fun j hj => hs.receive_live hp hl hj) fun j v hv => ?_
  obtain ⟨hj, rfl⟩ := List.getElem?_eq_some_iff.mp hv
  exact hs.receive_stored hp hl hj

/-- An operation that neither opens, completes a receive nor decodes leaves the received bytes alone. -/
theorem exec_keeps_rxContents (hexec : exec i s = .next t) (hopen : i ≠ .openDevice)
    (hcomplete : ¬CompletesRx i) (hdecode : i ≠ .decodeStep) : t.rxContents = s.rxContents := by
  have h : Effect s i t := exec_effect hexec
  have hback := mt h.rxBuf_writer hcomplete
  have hfront := mt h.rxRd_writer (not_or.mpr ⟨hdecode, hopen⟩)
  push Not at hback hfront
  exact rxContents_congr (exec_keeps_cfg hexec) hback.1 hfront.1 (Nat.le_antisymm hback.2 hfront.2)

theorem receivedBytes_completeRx (s : State) (status length : Nat) (data : List Byte) :
    receivedBytes s (.completeRx status length data) =
      if status = 0 ∧ s.isOpen = true then data else [] := by
  cases status <;> simp [receivedBytes]

theorem execCompleteRx_rxContents (hs : RxRingInv s) {status length : Nat} {data : List Byte}
    (h : execCompleteRx status length data s = .next t) (hf : t.fault = none) :
    t.rxContents = s.rxContents ++ receivedBytes s (.completeRx status length data) := by
  rw [receivedBytes_completeRx]
  obtain ⟨rfl, h⟩ := execCompleteRx_next h
  rcases h with ⟨-, rfl⟩ | ⟨-, -, -, -, rfl⟩ | ⟨-, ho, rfl⟩ | ⟨hp, ho, hst, hl, -, rfl⟩ | ⟨-, -, hst, rfl⟩
  · cases hf
  · cases hf
  · simp [ho]
  · simp [ho, hst, hs.rxContents_receive hp hl]
  · simp [hst]

theorem execDecodeStep_rxContents (h : execDecodeStep s = .next t) :
    t.rxContents = s.rxContents.drop (decodedBytes s .decodeStep) := by
  unfold decodedBytes
  rcases execDecodeStep_next h with ⟨ha, rfl⟩ | ⟨-, ho, rfl⟩ | ⟨-, -, hc, rfl⟩ | ⟨ha, ho, hc, rfl⟩
  · simp [ha]
  · simp [ho]
  · simp [Nat.not_le.mpr hc]
  · simp [ha, ho, hc]

/-- Settles O50: OPEN empties the ring, a running task drops a group from its front, a completion appends,
and every other operation leaves it alone. -/
theorem receiveRingIsFifo : Obligations.ReceiveRingIsFifo := by
  intro i s t hs hexec hf
  cases i with
  | openDevice => exact (execOpen_empties_rings hexec hf).2
  | completeRx => exact execCompleteRx_rxContents hs hexec hf
  | decodeStep => simpa [receivedBytes] using execDecodeStep_rxContents hexec
  | _ =>
    have hkept := exec_keeps_rxContents hexec (by simp) (by simp [CompletesRx]) (by simp)
    simpa [receivedBytes, decodedBytes] using hkept

end Sys2Proof.Machine

end


/-! # The encoding (`30_encoding.md`)

The statements of the family `30_encoding.md`. `Spells` says which bytes spell an instruction: the
encoder's, and for REGISTER any `present` byte (R74). `decode_ok_iff` says once what the decoder reads;
the round trip, the one meaning of a word and the stops on shortened serialisations are read off it. -/

section

namespace Sys2Proof

/-- The bytes `bs` spell the instruction and leave `rest`: the encoder's bytes (R73 to R75), but for REGISTER,
whose `present` byte is any (R74). -/
inductive Spells : List Byte → Instr → List Byte → Prop where
  | encoded {bs rest : List Byte} {i : Instr} (hreg : ∀ cable present, i ≠ .register cable present)
      (h : encode i ++ rest = bs) : Spells bs i rest
  | register (cable present : Byte) (rest : List Byte) :
      Spells (0x44#8 :: cable :: present :: rest) (.register cable.toNat (present != 0x00#8)) rest

/-- A well-formed instruction of the format, spelled by `bs`. -/
structure Reads (f : Format) (bs : List Byte) (i : Instr) (rest : List Byte) : Prop where
  wellFormed : i.wellFormed = true
  format     : i.format = f
  spells     : Spells bs i rest

/-! ### The decoder undoes the encoder -/

theorem decodeEventPacket_packetBytes (cable cin : Nibble) (b1 b2 b3 : Byte) (rest : List Byte) :
    decodeEventPacket (packetBytes cable cin b1 b2 b3 ++ rest) = .ok (packetInstr cin cable b1 b2 b3, rest) := by
  simp [packetBytes, decodeEventPacket]

/-- Decoding an encoding gives the instruction back and leaves the bytes after it. -/
theorem decode_encode {i : Instr} (hwf : i.wellFormed = true) (rest : List Byte) :
    decode i.format (encode i ++ rest) = .ok (i, rest) := by
  cases i with
  | openDevice | closeDevice | armTx | armRx | decodePacket | runTask | decodeStep => rfl
  | completeTx status length =>
    simp only [Instr.wellFormed, Bool.and_eq_true] at hwf
    obtain ⟨hstatus, hlength⟩ := hwf
    simp [decode, Instr.format, encode, decodeOp, decodeCompleteTx, toNat_ofNat_of_fitsByte hstatus,
      u16_bytes hlength]
  | completeRx status length data =>
    simp only [Instr.wellFormed, Bool.and_eq_true, beq_iff_eq] at hwf
    obtain ⟨⟨hstatus, hlength⟩, rfl⟩ := hwf
    simp [decode, Instr.format, encode, decodeOp, decodeCompleteRx, toNat_ofNat_of_fitsByte hstatus,
      u16_bytes hlength]
  | pack cable cin b1 b2 b3 =>
    simp only [Instr.wellFormed, Bool.and_eq_true] at hwf
    obtain ⟨hcable, hcin⟩ := hwf
    simp [decode, Instr.format, encode, decodeOp, decodePack, toNat_ofNat_of_fitsByte hcable,
      toNat_ofNat_of_fitsByte hcin]
  | encode cable msg | send cable msg =>
    simp only [Instr.wellFormed, Bool.and_eq_true] at hwf
    obtain ⟨hcable, hmsg⟩ := hwf
    simp [decode, Instr.format, encode, decodeOp, messageBytes, decodeMessage,
      toNat_ofNat_of_fitsByte hcable, toNat_ofNat_of_fitsByte hmsg]
  | noteOn cable channel | noteOff cable channel | controlChange cable channel =>
    simp only [Instr.wellFormed, Bool.and_eq_true] at hwf
    obtain ⟨hcable, hchannel⟩ := hwf
    simp [decode, Instr.format, encode, decodeOp, helperBytes, decodeHelper,
      toNat_ofNat_of_fitsByte hcable, toNat_ofNat_of_fitsByte hchannel]
  | register cable present =>
    cases present <;>
      simp [decode, Instr.format, encode, decodeOp, decodeRegister, toNat_ofNat_of_fitsByte hwf]
  | _ => exact decodeEventPacket_packetBytes _ _ _ _ _ _

/-- Settles O1: the decoder of a format undoes the encoder. -/
theorem decodeEncodeRoundTrip : Obligations.DecodeEncodeRoundTrip :=
  fun _ rest hwf => decode_encode hwf rest

/-- Every `present` byte spells a REGISTER (R74). -/
theorem decode_register (cable present : Byte) (rest : List Byte) :
    decode .op (0x44#8 :: cable :: present :: rest) = .ok (.register cable.toNat (present != 0x00#8), rest) :=
  rfl

theorem Reads.decode {f : Format} {bs rest : List Byte} {i : Instr} (h : Reads f bs i rest) :
    decode f bs = .ok (i, rest) := by
  obtain ⟨hwf, rfl, hspells⟩ := h
  cases hspells with
  | encoded _ hbs => exact hbs ▸ decode_encode hwf rest
  | register cable present => exact decode_register cable present rest

/-! ### What the decoder reads, one lemma a layout of R74 -/

section
variable {bs rest : List Byte} {i : Instr}

theorem decodeCompleteTx_reads (h : decodeCompleteTx 0x12#8 bs = .ok (i, rest)) :
    Reads .op (0x12#8 :: bs) i rest := by
  unfold decodeCompleteTx at h
  split at h <;> cases h
  exact ⟨by simp [Instr.wellFormed, fitsByte_toNat, fitsU16, u16_lt], rfl,
    .encoded nofun (by simp [encode])⟩

theorem decodeCompleteRx_reads (h : decodeCompleteRx 0x13#8 bs = .ok (i, rest)) :
    Reads .op (0x13#8 :: bs) i rest := by
  unfold decodeCompleteRx at h
  split at h
  · split at h <;> cases h
    next hlength =>
    exact ⟨by simp [Instr.wellFormed, fitsByte_toNat, fitsU16, u16_lt, Nat.not_lt.mp hlength], rfl,
      .encoded nofun (by simp [encode])⟩
  · cases h

theorem decodePack_reads (h : decodePack 0x20#8 bs = .ok (i, rest)) : Reads .op (0x20#8 :: bs) i rest := by
  unfold decodePack at h
  split at h <;> cases h
  exact ⟨by simp [Instr.wellFormed, fitsByte_toNat], rfl, .encoded nofun (by simp [encode])⟩

theorem decodeFourBytes_reads (h : decodeFourBytes 0x22#8 bs = .ok (i, rest)) :
    Reads .op (0x22#8 :: bs) i rest := by
  unfold decodeFourBytes at h
  split at h <;> cases h
  exact ⟨rfl, rfl, .encoded nofun rfl⟩

theorem decodeRegister_reads (h : decodeRegister 0x44#8 bs = .ok (i, rest)) :
    Reads .op (0x44#8 :: bs) i rest := by
  unfold decodeRegister at h
  split at h <;> cases h
  exact ⟨fitsByte_toNat _, rfl, .register _ _ _⟩

/-- ENCODE and SEND: the operands are a cable that fits its byte and a message whose length does. -/
theorem decodeMessage_ok {opcode : Byte} {make : Nat → List Byte → Instr}
    (h : decodeMessage opcode make bs = .ok (i, rest)) :
    ∃ cable msg, (fitsByte cable && fitsByte msg.length) = true ∧ i = make cable msg ∧
      messageBytes opcode cable msg ++ rest = opcode :: bs := by
  unfold decodeMessage at h
  split at h
  · next cable n bs =>
    split at h <;> cases h
    next hlt =>
    have hlength : (bs.take n.toNat).length = n.toNat := List.length_take_of_le (Nat.not_lt.mp hlt)
    exact ⟨_, _, by simp [hlength, fitsByte_toNat], rfl, by simp [messageBytes, hlength]⟩
  · cases h

/-- The helpers: the operands are a cable and a channel that fit their bytes. -/
theorem decodeHelper_ok {opcode : Byte} {make : Nat → Nat → Byte → Byte → Instr}
    (h : decodeHelper opcode make bs = .ok (i, rest)) :
    ∃ cable channel b1 b2, (fitsByte cable && fitsByte channel) = true ∧ i = make cable channel b1 b2 ∧
      helperBytes opcode cable channel b1 b2 ++ rest = opcode :: bs := by
  unfold decodeHelper at h
  split at h <;> cases h
  exact ⟨_, _, _, _, by simp [fitsByte_toNat], rfl, by simp [helperBytes]⟩

theorem decodeEventPacket_ok (h : decodeEventPacket bs = .ok (i, rest)) :
    ∃ cable cin b1 b2 b3, i = packetInstr cin cable b1 b2 b3 ∧ packetBytes cable cin b1 b2 b3 ++ rest = bs := by
  unfold decodeEventPacket at h
  split at h <;> cases h
  exact ⟨_, _, _, _, _, rfl, by simp [packetBytes]⟩

theorem decodeEventPacket_reads (h : decodeEventPacket bs = .ok (i, rest)) : Reads .eventPacket bs i rest := by
  obtain ⟨cable, cin, b1, b2, b3, rfl, hbs⟩ := decodeEventPacket_ok h
  obtain ⟨hformat, hwf, hencode⟩ := packetInstr_cases cin cable b1 b2 b3
  refine ⟨hwf, hformat, .encoded (fun c p hreg => ?_) (hencode ▸ hbs)⟩
  rw [hreg] at hformat
  cases hformat

theorem decodeOp_reads (h : decodeOp bs = .ok (i, rest)) : Reads .op bs i rest := by
  cases bs with
  | nil => cases h
  | cons op bs =>
    -- The branches of the match are the opcodes in the order of R73; the last one is no opcode.
    simp only [decodeOp] at h
    split at h
    case h_17 => cases h
    all_goals
      rename_i hop
      obtain ⟨-, rfl⟩ := BitVec.toNat_eq_nat.mp hop
    case h_5 => exact decodeCompleteTx_reads h
    case h_6 => exact decodeCompleteRx_reads h
    case h_7 => exact decodePack_reads h
    case h_9 => exact decodeFourBytes_reads h
    case h_16 => exact decodeRegister_reads h
    case h_8 | h_12 => -- ENCODE, SEND
      obtain ⟨cable, msg, hwf, rfl, hbs⟩ := decodeMessage_ok h
      exact ⟨hwf, rfl, .encoded nofun hbs⟩
    case h_13 | h_14 | h_15 => -- the helpers
      obtain ⟨cable, channel, b1, b2, hwf, rfl, hbs⟩ := decodeHelper_ok h
      exact ⟨hwf, rfl, .encoded nofun hbs⟩
    all_goals -- the operations without operands
      cases h
      exact ⟨rfl, rfl, .encoded nofun rfl⟩

theorem decode_reads {f : Format} (h : decode f bs = .ok (i, rest)) : Reads f bs i rest := by
  cases f with
  | op => exact decodeOp_reads h
  | eventPacket => exact decodeEventPacket_reads h

end

/-- What the decoder reads: exactly the well-formed instructions of the format that the bytes spell. -/
theorem decode_ok_iff {f : Format} {bs rest : List Byte} {i : Instr} :
    decode f bs = .ok (i, rest) ↔ Reads f bs i rest :=
  ⟨decode_reads, Reads.decode⟩

theorem Spells.length {bs rest : List Byte} {i : Instr} (h : Spells bs i rest) :
    (encode i).length + rest.length = bs.length := by
  cases h with
  | encoded _ hbs => rw [← hbs, List.length_append]
  | register => simp only [encode, List.length_cons, List.length_nil]; omega

/-- Settles O2: the decoder reads what the bytes spell, and a REGISTER's `present` is its byte but 0x00. -/
theorem decodedWordHasOneMeaning : Obligations.DecodedWordHasOneMeaning := by
  refine ⟨fun f bs i rest h => ?_, decode_register⟩
  obtain ⟨hwf, hformat, hspells⟩ := decode_reads h
  refine ⟨hwf, hformat, hspells.length, ?_⟩
  cases hspells with
  | encoded hreg hbs => exact ⟨fun _ => hbs, fun cable present hi => absurd hi (hreg cable present)⟩
  | register cable present =>
    refine ⟨fun hreg => absurd rfl (hreg _ _), fun c p hi => ?_⟩
    cases hi
    exact ⟨present, by simp, by simp⟩

/-! ### Words of the spec (R73 to R75, R55) -/

/-- Settles O3: the decoder run on each word. -/
theorem specWordsDecode : Obligations.SpecWordsDecode := by
  unfold Obligations.SpecWordsDecode
  decide

/-! ### Bytes that spell no operation (R96, R116) -/

section
variable {bs : List Byte} {i : Instr}

theorem decodeRequest_ok_iff : decodeRequest bs = .ok i ↔ Reads .op bs i [] := by
  rw [← decode_ok_iff, decode, decodeRequest]
  rcases decodeOp bs with _ | ⟨j, _ | ⟨_, _⟩⟩ <;> simp

theorem Spells.append {rest : List Byte} (h : Spells bs i rest) (more : List Byte) :
    Spells (bs ++ more) i (rest ++ more) := by
  cases h with
  | encoded hreg hbs => exact .encoded hreg (by rw [← hbs, List.append_assoc])
  | register cable present => exact .register cable present _

theorem Reads.append {f : Format} {rest : List Byte} (h : Reads f bs i rest) (more : List Byte) :
    Reads f (bs ++ more) i (rest ++ more) :=
  ⟨h.wellFormed, h.format, h.spells.append more⟩

/-- A shortened serialisation spells no request: with the bytes cut off put back, the decoder would read it and
not the whole. -/
theorem length_le_of_decodeRequest_take {n : Nat} {j : Instr} (hwf : i.wellFormed = true) (hformat : i.format = .op)
    (h : decodeRequest ((encode i).take n) = .ok j) : (encode i).length ≤ n := by
  have hshort : Reads .op (encode i) j ((encode i).drop n) := by
    simpa using (decodeRequest_ok_iff.mp h).append ((encode i).drop n)
  have hwhole : decode .op (encode i) = .ok (i, []) := by
    simpa [hformat] using decode_encode hwf []
  rw [hshort.decode] at hwhole
  simp only [Except.ok.injEq, Prod.mk.injEq, List.drop_eq_nil_iff] at hwhole
  exact hwhole.2

theorem decodeRequest_unassigned {op : Byte} {rest : List Byte} (h : op.toNat ∉
      [0x01, 0x02, 0x10, 0x11, 0x12, 0x13, 0x20, 0x21, 0x22, 0x30, 0x31, 0x40, 0x41, 0x42, 0x43, 0x44]) :
    decodeRequest (op :: rest) = .error (.unassignedOpcode op) := by
  simp only [List.mem_cons, List.not_mem_nil, or_false, not_or] at h
  simp [decodeRequest, decodeOp, h]

end

end Sys2Proof

namespace Sys2Proof.Machine

variable {s : State}

theorem fetch_of_invalid {r : Request} {rs : List Request} {e : DecodeError} (hq : s.requests = r :: rs)
    (hd : decodeRequest r.bytes = .error e) : fetch s = .error (.invalidRequest e) := by
  simp only [fetch, hq, hd]

theorem exec_completeRx_of_mismatch {length : Nat} {data : List Byte} (status : Nat) (hf : s.fault = none)
    (h : data.length ≠ length) :
    exec (.completeRx status length data) s = .refused (.dataLengthMismatch length data.length) := by
  rw [exec, execCompleteRx, unlessFaulted_of_none hf, if_pos h]

/-- Settles O4: no opcode, no whole serialisation, no well-formed COMPLETE_RX: nothing the decoder reads. -/
theorem invalidRequestsHaveNoStep : Obligations.InvalidRequestsHaveNoStep := by
  refine ⟨fun _ _ => decodeRequest_unassigned, fun i n hwf hformat hn => ?_,
    fun s r rs e hf hq hd => step_of_fetch_error hf (fetch_of_invalid hq hd),
    fun s status length data hf hlength =>
      ⟨exec_completeRx_of_mismatch status hf hlength, fun bs hd => ?_⟩⟩
  · cases hd : decodeRequest ((encode i).take n) with
    | error e => exact ⟨e, rfl⟩
    | ok j => exact absurd (length_le_of_decodeRequest_take hwf hformat hd) (Nat.not_le.mpr hn)
  · have hwf := (decodeRequest_ok_iff.mp hd).wellFormed
    simp only [Instr.wellFormed, Bool.and_eq_true, beq_iff_eq] at hwf
    exact hlength hwf.2

/-! ### A placed row (log entry 8) -/

/-- The step after a request of its own agent is placed first in line runs its operation. -/
theorem step_placeRequest {i : Instr} {bs : List Byte} (hf : s.fault = none) (hd : decodeRequest bs = .ok i) :
    step (placeRequest s ⟨issuerOf i, bs⟩) = exec i s :=
  stepRunsRequest _ _ _ i hf rfl hd (mayIssue_iff.mpr rfl)

/-- Four bytes written to a ring and read back. -/
theorem packetList_ringPacket_ringWrite (d : Direction) {cap : Nat} (hcap : 4 ≤ cap) (m : Memory) (start : Nat)
    (p0 p1 p2 p3 : Byte) :
    packetList (ringPacket d cap (ringWrite cap m start [p0, p1, p2, p3]) start) = [p0, p1, p2, p3] := by
  have hread {i : Nat} {v : Byte} (h : [p0, p1, p2, p3][i]? = some v) :
      memRead d (ringWrite cap m start [p0, p1, p2, p3]) ((start + i) % cap) = v :=
    memRead_of_storedByte (storedByte_ringWrite_at cap _ m start i v hcap h)
  have hfirst : memRead d (ringWrite cap m start [p0, p1, p2, p3]) (start % cap) = p0 := hread (i := 0) rfl
  rw [packetList, ringPacket, hfirst, hread (i := 1) rfl, hread (i := 2) rfl, hread (i := 3) rfl]

theorem step_placePacket (hf : s.fault = none) (bs : List Byte) :
    step (placePacket s bs) = exec .decodeStep { placePacket s bs with requests := s.requests } :=
  step_placeRequest (i := .decodeStep) hf rfl

theorem decodeTableWord_eq_some {nbits w : Nat} {i : Instr} (h : decodeTableWord nbits w = some i) :
    ∃ f bs, tableWord nbits w = (f, bs) ∧ Reads f bs i [] := by
  unfold decodeTableWord at h
  split at h
  next f bs htable =>
  split at h <;> cases h
  next hd => exact ⟨f, bs, htable, decode_reads hd⟩

section
variable {nbits w : Nat} {bs : List Byte} {i : Instr}

theorem withFetchWord_of_op (htable : tableWord nbits w = (.op, bs)) (h : Reads .op bs i []) :
    s.withFetchWord nbits w = placeRequest s ⟨issuerOf i, bs⟩ := by
  have hd : decodeOp bs = .ok (i, []) := h.decode
  simp only [State.withFetchWord, placeWord, htable, hd]

theorem withFetchWord_of_eventPacket (htable : tableWord nbits w = (.eventPacket, bs)) :
    s.withFetchWord nbits w = placePacket s bs := by
  simp only [State.withFetchWord, placeWord, htable]

/-- The packet placed is the group at the receive read cursor. -/
theorem packetList_headPacket_placePacket (h : Reads .eventPacket bs i []) :
    packetList (headPacket (placePacket s bs)) = bs := by
  obtain ⟨cable, cin, b1, b2, b3, -, rfl⟩ := decodeEventPacket_ok h.decode
  exact packetList_ringPacket_ringWrite .rx s.cfg.cRx_ge s.rxBuf s.rxRd _ _ _ _

end

/-- Settles O5: an operation is placed as the first request, a packet at the receive read cursor. -/
theorem placedWordRuns : Obligations.PlacedWordRuns := by
  intro s nbits w i hf hword
  obtain ⟨f, bs, htable, hreads⟩ := decodeTableWord_eq_some hword
  rw [hreads.format]
  cases f with
  | op =>
    refine ⟨fun _ => ?_, nofun⟩
    rw [withFetchWord_of_op htable hreads]
    exact step_placeRequest hf (decodeRequest_ok_iff.mpr hreads)
  | eventPacket =>
    refine ⟨nofun, fun _ => ?_⟩
    rw [withFetchWord_of_eventPacket htable, packetList_headPacket_placePacket hreads]
    exact ⟨step_placePacket hf bs, hreads.decode⟩

/-! ### The status of a completion (R71, R115, R118) -/

theorem execCompleteTx_failed {status : Nat} (length : Nat) (h : status ≠ 0) :
    execCompleteTx status length s = unlessFaulted s (
      if s.txState = .idle then raiseFault s (.spuriousCompletion .tx)
      else if s.isOpen = false then finish s.txToIdle (.code .ok)
      else finish (armTx s.txToIdle).1 (.code .ok)) := by
  simp [execCompleteTx, settleTx, h]

theorem execCompleteRx_failed {status : Nat} (data : List Byte) (h : status ≠ 0) :
    execCompleteRx status data.length data s = unlessFaulted s (
      if s.rxState = .idle then raiseFault s (.spuriousCompletion .rx)
      else if s.isOpen = false then finish s.rxToIdle (.code .ok)
      else finish (armRx s.rxToIdle).1 (.code .ok)) := by
  simp [execCompleteRx, settleRx, h]

/-- Settles O23: a failed completion's outcome names neither its status, nor its length, nor its data. -/
theorem onlyZeroStatusMatters : Obligations.OnlyZeroStatusMatters := by
  intro s status status' length length' data data' h h'
  exact ⟨(execCompleteTx_failed length h).trans (execCompleteTx_failed length' h').symm,
    (execCompleteRx_failed data h).trans (execCompleteRx_failed data' h').symm⟩

end Sys2Proof.Machine

end

/-! # The transfer pump (`40_transfer_pump.md`)

The statements of the family `40_transfer_pump.md`. One equation a case says what each operation of the pump
gives; the statements about one operation are read off these and off the submitted region. That a pending
pump stays so (R109) and that the pumps stay busy (R123) are read off `Effect`. -/

section

namespace Sys2Proof.Machine

variable {s t : State}

/-! ### OPEN and CLOSE (R104, R105) -/

theorem exec_openDevice_of_open (hf : s.fault = none) (ho : s.isOpen = true) :
    exec .openDevice s = raiseFault s .openWhileOpen := by
  rw [exec, execOpen, unlessFaulted_of_none hf, if_pos ho]

theorem exec_openDevice_of_pending (hf : s.fault = none) (ho : s.isOpen = false)
    (hp : s.txState = .transferPending ∨ s.rxState = .transferPending) :
    exec .openDevice s =
      raiseFault s (.openWhilePending (s.txState = .transferPending) (s.rxState = .transferPending)) := by
  rw [exec, execOpen, unlessFaulted_of_none hf, if_neg (by simp [ho]), if_pos hp]

/-- OPEN of an Idle instance arms the receive pump only: the emptied transmit ring has nothing to send (R104). -/
theorem exec_openDevice_of_idle (hf : s.fault = none) (ho : s.isOpen = false) (ht : s.txState = .idle)
    (hr : s.rxState = .idle) :
    exec .openDevice s = finish (armRx (s.restartRings.setOpen true)).1 (.code .ok) := by
  rw [exec, execOpen, unlessFaulted_of_none hf, if_neg (by simp [ho]), if_neg (by simp [ht, hr]),
    armTx_empty (s := s.restartRings.setOpen true) rfl ht rfl]

/-- An emptied receive ring has its whole capacity to offer (R104). -/
theorem restartRings_rxFree : (s.restartRings.setOpen true).rxFree = s.cfg.cRx := rfl

theorem restartRings_rxWr : (s.restartRings.setOpen true).rxWr = 0 := Nat.zero_mod _

/-- Settles O12: two guards fault, and past them the receive region of an empty ring is submitted. -/
theorem openRestartsAndArmsReceive : Obligations.OpenRestartsAndArmsReceive := by
  intro s hf
  refine ⟨fun ho ht hr => ?_, exec_openDevice_of_open hf, exec_openDevice_of_pending hf⟩
  have hfree : (s.restartRings.setOpen true).rxFree ≠ 0 := by
    rw [restartRings_rxFree]
    have hcap := s.cfg.cRx_ge
    omega
  rw [exec_openDevice_of_idle hf ho ht hr, armRx_submits (s := s.restartRings.setOpen true) rfl hr hfree,
    submitRxRegion_eq, restartRings_rxFree, restartRings_rxWr, State.setOpen_cfg, State.restartRings_cfg,
    Nat.sub_zero, ← min_assoc, min_self]
  rfl

/-- Settles O13: unfaulted, CLOSE has one outcome. -/
theorem closeKeepsTransfersInFlight : Obligations.CloseKeepsTransfersInFlight :=
  fun _ hf => unlessFaulted_of_none hf

/-! ### Arm attempts (R108, R109, R112) -/

theorem exec_armTx (hf : s.fault = none) : exec .armTx s = finishCode (armTx s) :=
  unlessFaulted_of_none hf

theorem exec_armRx (hf : s.fault = none) : exec .armRx s = finishCode (armRx s) :=
  unlessFaulted_of_none hf

/-- Settles O14: the outcomes are those of `armTx`. -/
theorem armTxSubmitsRegion : Obligations.ArmTxSubmitsRegion := by
  intro s hf
  rw [exec_armTx hf]
  refine ⟨fun ho hi hc => ?_, fun ho => ?_, fun ho hp => ?_, fun ho hi hc => ?_⟩
  · rw [armTx_submits ho hi hc]; rfl
  · rw [armTx_closed ho]; rfl
  · rw [armTx_pending ho hp]; rfl
  · rw [armTx_empty ho hi hc]; rfl

/-- Settles O15: the outcomes are those of `armRx`. -/
theorem armRxSubmitsRegion : Obligations.ArmRxSubmitsRegion := by
  intro s hf
  rw [exec_armRx hf]
  refine ⟨fun ho hi hc => ?_, fun ho => ?_, fun ho hp => ?_, fun ho hi hc => ?_⟩
  · rw [armRx_submits ho hi hc]; rfl
  · rw [armRx_closed ho]; rfl
  · rw [armRx_pending ho hp]; rfl
  · rw [armRx_full ho hi hc]; rfl

theorem exec_armTx_of_pending (hf : s.fault = none) (hp : s.txState = .transferPending) :
    exec .armTx s = .next { s with
      reply := some (.code (if s.isOpen = true then .noopPending else .noopClosed)) } := by
  obtain ⟨-, hclosed, hpending, -⟩ := armTxSubmitsRegion s hf
  by_cases ho : s.isOpen = true
  · rw [if_pos ho]; exact hpending ho hp
  · rw [if_neg ho]; exact hclosed (Bool.eq_false_of_not_eq_true ho)

theorem exec_armRx_of_pending (hf : s.fault = none) (hp : s.rxState = .transferPending) :
    exec .armRx s = .next { s with
      reply := some (.code (if s.isOpen = true then .noopPending else .noopClosed)) } := by
  obtain ⟨-, hclosed, hpending, -⟩ := armRxSubmitsRegion s hf
  by_cases ho : s.isOpen = true
  · rw [if_pos ho]; exact hpending ho hp
  · rw [if_neg ho]; exact hclosed (Bool.eq_false_of_not_eq_true ho)

theorem pending_of_armTx_armed (h : exec .armTx s = .next t) (hr : t.reply = some (.code .armed)) :
    t.txState = .transferPending := by
  rw [execArmTx_next h] at hr ⊢
  rcases armTx_cases s with ⟨-, harm⟩ | ⟨-, -, harm⟩ | ⟨-, -, -, harm⟩ | ⟨-, -, -, harm⟩ <;> rw [harm] at hr ⊢
  · cases hr
  · cases hr
  · cases hr
  · rfl

theorem pending_of_armRx_armed (h : exec .armRx s = .next t) (hr : t.reply = some (.code .armed)) :
    t.rxState = .transferPending := by
  rw [execArmRx_next h] at hr ⊢
  rcases armRx_cases s with ⟨-, harm⟩ | ⟨-, -, harm⟩ | ⟨-, -, -, harm⟩ | ⟨-, -, -, harm⟩ <;> rw [harm] at hr ⊢
  · cases hr
  · cases hr
  · cases hr
  · rfl

/-- Only its own completion takes the transmit pump out of TransferPending (R23, R102). -/
theorem exec_keeps_txPending {i : Instr} (hi : ¬CompletesTx i) (h : exec i s = .next t)
    (hp : s.txState = .transferPending) : t.txState = .transferPending :=
  PumpState.ne_idle_iff.mp fun ht =>
    hi ((exec_effect h).txPumpMove.idle_writer ht (PumpState.ne_idle_iff.mpr hp))

/-- Only its own completion takes the receive pump out of TransferPending (R24, R102). -/
theorem exec_keeps_rxPending {i : Instr} (hi : ¬CompletesRx i) (h : exec i s = .next t)
    (hp : s.rxState = .transferPending) : t.rxState = .transferPending :=
  PumpState.ne_idle_iff.mp fun ht =>
    hi ((exec_effect h).rxPumpMove.idle_writer ht (PumpState.ne_idle_iff.mpr hp))

theorem execAll_cons_next {i : Instr} {is : List Instr} {u : State} (h : execAll (i :: is) s = .next u) :
    ∃ t, exec i s = .next t ∧ execAll is t = .next u := by
  rw [execAll] at h
  cases hexec : exec i s with
  | next t => rw [hexec] at h; exact ⟨t, rfl, h⟩
  | fault f => rw [hexec] at h; cases h
  | refused r => rw [hexec] at h; cases h

/-- What each of some operations keeps, they keep one after another. -/
theorem execAll_keeps {P : State → Prop} {is : List Instr} {u : State}
    (hkeep : ∀ i ∈ is, ∀ s t, exec i s = .next t → P s → P t) (h : execAll is s = .next u) (hs : P s) :
    P u := by
  induction is generalizing s with
  | nil => cases h; exact hs
  | cons i is ih =>
    obtain ⟨t, hexec, hrest⟩ := execAll_cons_next h
    exact ih (fun j hj => hkeep j (List.mem_cons_of_mem _ hj)) hrest (hkeep i List.mem_cons_self s t hexec hs)

/-- Settles O16: ARMED leaves the pump TransferPending, which no operation but its completion ends. -/
theorem rearmIsIdempotent : Obligations.RearmIsIdempotent := by
  intro is s t u hrun hf
  refine ⟨fun harm hr hno => ?_, fun harm hr hno => ?_⟩
  · have ht : t.txState = .transferPending := pending_of_armTx_armed harm hr
    have hu : u.txState = .transferPending :=
      execAll_keeps (fun i hi _ _ => exec_keeps_txPending fun ⟨_, _, heq⟩ => hno i hi _ _ heq) hrun ht
    exact ⟨ht, hu, exec_armTx_of_pending hf hu⟩
  · have ht : t.rxState = .transferPending := pending_of_armRx_armed harm hr
    have hu : u.rxState = .transferPending :=
      execAll_keeps (fun i hi _ _ => exec_keeps_rxPending fun ⟨_, _, _, heq⟩ => hno i hi _ _ _ heq) hrun ht
    exact ⟨ht, hu, exec_armRx_of_pending hf hu⟩

/-! ### COMPLETE_TX (R113 to R115) -/

section
variable {status length : Nat}

theorem exec_completeTx_spurious (hf : s.fault = none) (hi : s.txState = .idle) :
    exec (.completeTx status length) s = raiseFault s (.spuriousCompletion .tx) := by
  rw [exec, execCompleteTx, unlessFaulted_of_none hf, if_pos hi]

theorem exec_completeTx_overrun (hf : s.fault = none) (hp : s.txState = .transferPending)
    (ho : s.isOpen = true) (hl : s.txXferLen < length) :
    exec (.completeTx 0 length) s = raiseFault s (.lengthOverrun .tx length s.txXferLen) := by
  rw [exec, execCompleteTx, unlessFaulted_of_none hf, if_neg (by simp [hp]), if_pos ⟨ho, rfl, hl⟩]

theorem exec_completeTx_closed (hf : s.fault = none) (hp : s.txState = .transferPending)
    (ho : s.isOpen = false) :
    exec (.completeTx status length) s = finish s.txToIdle (.code .ok) := by
  rw [exec, execCompleteTx, unlessFaulted_of_none hf, if_neg (by simp [hp]), if_neg (by simp [ho]), if_pos ho]

theorem exec_completeTx_confirmed (hf : s.fault = none) (hp : s.txState = .transferPending)
    (ho : s.isOpen = true) (hl : length ≤ s.txXferLen) :
    exec (.completeTx 0 length) s = finish (armTx (s.txToIdle.advanceTx length)).1 (.code .ok) := by
  rw [exec, execCompleteTx, unlessFaulted_of_none hf, if_neg (by simp [hp]), if_neg (by omega),
    if_neg (by simp [ho]), settleTx, if_pos rfl]

theorem exec_completeTx_failed (hf : s.fault = none) (hp : s.txState = .transferPending)
    (ho : s.isOpen = true) (hst : status ≠ 0) :
    exec (.completeTx status length) s = finish (armTx s.txToIdle).1 (.code .ok) := by
  rw [exec, execCompleteTx_failed length hst, unlessFaulted_of_none hf, if_neg (by simp [hp]),
    if_neg (by simp [ho])]

end

/-- Settles O18: the arm attempt from the advanced cursor finds nothing left, or submits the rest. -/
theorem transmitSuccessAdvancesThenRearms : Obligations.TransmitSuccessAdvancesThenRearms := by
  intro s length hf ho hp hl rd cnt len
  rw [exec_completeTx_confirmed hf hp ho hl]
  by_cases hc : cnt = 0
  · rw [if_pos hc, armTx_empty (s := s.txToIdle.advanceTx length) ho rfl hc]
    rfl
  · rw [if_neg hc, armTx_submits (s := s.txToIdle.advanceTx length) ho rfl hc, hp]
    rfl

/-- Settles O19: a transfer in flight has bytes queued, so the arm attempt submits them again. -/
theorem transmitFailureResubmits : Obligations.TransmitFailureResubmits := by
  intro s status length hf ho hp hs hst
  have hc : s.txCnt ≠ 0 := by
    obtain ⟨-, hpos, hlen, -⟩ := hs.in_flight hp
    omega
  rw [exec_completeTx_failed hf hp ho hst, armTx_submits (s := s.txToIdle) ho rfl hc, hp]
  rfl

/-! ### COMPLETE_RX (R116 to R118) -/

section
variable {status : Nat} {data : List Byte}

theorem exec_completeRx_spurious (hf : s.fault = none) (hi : s.rxState = .idle) :
    exec (.completeRx status data.length data) s = raiseFault s (.spuriousCompletion .rx) := by
  rw [exec, execCompleteRx, unlessFaulted_of_none hf, if_neg (by simp), if_pos hi]

theorem exec_completeRx_overrun (hf : s.fault = none) (hp : s.rxState = .transferPending)
    (ho : s.isOpen = true) (hl : s.rxXferLen < data.length) :
    exec (.completeRx 0 data.length data) s =
      raiseFault s (.lengthOverrun .rx data.length s.rxXferLen) := by
  rw [exec, execCompleteRx, unlessFaulted_of_none hf, if_neg (by simp), if_neg (by simp [hp]),
    if_pos ⟨ho, rfl, hl⟩]

theorem exec_completeRx_closed (hf : s.fault = none) (hp : s.rxState = .transferPending)
    (ho : s.isOpen = false) :
    exec (.completeRx status data.length data) s = finish s.rxToIdle (.code .ok) := by
  rw [exec, execCompleteRx, unlessFaulted_of_none hf, if_neg (by simp), if_neg (by simp [hp]),
    if_neg (by simp [ho]), if_pos ho]

/-- A region in flight ends inside the storage (R37), so its bytes have a place (log entry 12). -/
theorem exec_completeRx_received (hf : s.fault = none) (hp : s.rxState = .transferPending)
    (ho : s.isOpen = true) (hs : RxRingInv s) (hl : data.length ≤ s.rxXferLen) :
    exec (.completeRx 0 data.length data) s =
      finish (armRx (s.rxToIdle.receive data.length data)).1 (.code .ok) := by
  obtain ⟨-, -, -, hend⟩ := hs.in_flight hp
  rw [exec, execCompleteRx, unlessFaulted_of_none hf, if_neg (by simp), if_neg (by simp [hp]),
    if_neg (by omega), if_neg (by simp [ho]), if_neg (by omega), settleRx, if_pos rfl]

theorem exec_completeRx_failed (hf : s.fault = none) (hp : s.rxState = .transferPending)
    (ho : s.isOpen = true) (hst : status ≠ 0) :
    exec (.completeRx status data.length data) s = finish (armRx s.rxToIdle).1 (.code .ok) := by
  rw [exec, execCompleteRx_failed data hst, unlessFaulted_of_none hf, if_neg (by simp [hp]),
    if_neg (by simp [ho])]

end

theorem storedByte_memWriteFrom_at (m : Memory) (off : Nat) {vs : List Byte} {i : Nat} {v : Byte}
    (h : vs[i]? = some v) : storedByte (memWriteFrom m off vs) (off + i) = some v := by
  obtain ⟨hi, -⟩ := List.getElem?_eq_some_iff.mp h
  rw [storedByte_memWriteFrom, if_pos (by omega), Nat.add_sub_cancel_left, h]

theorem storedByte_memWriteFrom_outside (m : Memory) {off a : Nat} {vs : List Byte}
    (h : a < off ∨ off + vs.length ≤ a) : storedByte (memWriteFrom m off vs) a = storedByte m a := by
  rw [storedByte_memWriteFrom, if_neg (by omega)]

/-- Settles O20: the bytes are stored in the region in flight, and the arm attempt at the advanced write
cursor finds the ring full or offers what is free. -/
theorem receiveSuccessStoresThenRearms : Obligations.ReceiveSuccessStoresThenRearms := by
  intro s data hf ho hp hs hl
  obtain ⟨hoff, -, -, hend⟩ := hs.in_flight hp
  have hcnt : s.rxCnt + data.length ≤ s.cfg.cRx := (hs.receive hp hl).cnt_le
  refine ⟨hoff, by omega, hcnt, _, exec_completeRx_received hf hp ho hs hl, fun i v hv => ?_,
    fun a ha => ?_, ?_⟩
  · rw [State.withReply_rxBuf, armRx_rxBuf]
    exact storedByte_memWriteFrom_at _ _ hv
  · rw [State.withReply_rxBuf, armRx_rxBuf]
    exact storedByte_memWriteFrom_outside _ ha
  by_cases hc : s.cfg.cRx = s.rxCnt + data.length
  · have hfull : (s.rxToIdle.receive data.length data).rxFree = 0 := Nat.sub_eq_zero_of_le hc.le
    rw [if_pos hc, armRx_full (s := s.rxToIdle.receive data.length data) ho rfl hfull]
    rfl
  · have hfree : (s.rxToIdle.receive data.length data).rxFree ≠ 0 :=
      Nat.sub_ne_zero_of_lt (lt_of_le_of_ne hcnt (Ne.symm hc))
    rw [if_neg hc, armRx_submits (s := s.rxToIdle.receive data.length data) ho rfl hfree, hp]
    rfl

/-- Settles O21: a transfer in flight has free bytes, so the arm attempt offers them again. -/
theorem receiveFailureRearms : Obligations.ReceiveFailureRearms := by
  intro s status data hf ho hp hs hst
  have hfree : s.rxFree ≠ 0 := by
    obtain ⟨-, hpos, hlen, -⟩ := hs.in_flight hp
    omega
  rw [exec_completeRx_failed hf hp ho hst, armRx_submits (s := s.rxToIdle) ho rfl hfree, hp]
  rfl

/-! ### Both completions (R119, R121) -/

/-- Settles O17: the first two checks of each completion. -/
theorem completionContractFaults : Obligations.CompletionContractFaults := by
  intro s status length data hf
  exact ⟨exec_completeTx_spurious hf, exec_completeRx_spurious hf, exec_completeTx_overrun hf,
    exec_completeRx_overrun hf⟩

/-- Settles O22: while closed a completion of either direction ends before its bookkeeping. -/
theorem completionAfterCloseOnlyIdles : Obligations.CompletionAfterCloseOnlyIdles := by
  intro s status length data hf ho
  exact ⟨fun hp => exec_completeTx_closed hf hp ho, fun hp => exec_completeRx_closed hf hp ho⟩

/-! ### The pumps are busy while there is work (R123) -/

/-- R123 for the transmit pump: every effect that ends its transfer or queues bytes ends with an arm
attempt. -/
theorem Effect.keeps_txBusy {i : Instr} (h : Effect s i t)
    (hs : s.isOpen = true → s.txState = .transferPending ∨ s.txCnt = 0) (ho : t.isOpen = true) :
    t.txState = .transferPending ∨ t.txCnt = 0 := by
  cases h with
  | opens _ _ _ => exact .inr (by simp)
  | closes _ => cases ho
  | armsTx _ => exact armTx_busy (by simpa using ho)
  | releasesTx _ _ => exact armTx_busy (by simpa using ho)
  | confirmsTx _ _ _ => exact armTx_busy (by simpa using ho)
  | queues _ _ _ _ => exact armTx_busy (by simpa using ho)
  | _ => simpa using hs (by simpa using ho)

/-- R123 for the receive pump: every effect that ends its transfer or frees bytes ends with an arm attempt. -/
theorem Effect.keeps_rxBusy {i : Instr} (h : Effect s i t)
    (hs : s.isOpen = true → s.rxState = .transferPending ∨ s.rxFree = 0) (ho : t.isOpen = true) :
    t.rxState = .transferPending ∨ t.rxFree = 0 := by
  cases h with
  | opens _ _ _ => exact armRx_busy rfl
  | closes _ => cases ho
  | armsRx _ => exact armRx_busy (by simpa using ho)
  | releasesRx _ _ => exact armRx_busy (by simpa using ho)
  | receives _ _ _ => exact armRx_busy (by simpa using ho)
  | endsTask _ => exact armRx_busy (by simpa using ho)
  | decodes _ _ _ => exact armRx_busy (by simpa using ho)
  | _ => simpa [State.rxFree] using hs (by simpa using ho)

/-- Settles O40: a step runs one operation with its request taken, and every effect of an operation keeps
each pump busy. -/
theorem stepKeepsPumpsBusy : Obligations.StepKeepsPumpsBusy := by
  intro s t hs h ho
  obtain ⟨_, _, _, -, -, -, -, hexec⟩ := step_next h
  have heffect := exec_effect hexec
  exact ⟨heffect.keeps_txBusy (fun hopen => (hs hopen).1) ho,
    heffect.keeps_rxBusy (fun hopen => (hs hopen).2) ho⟩

end Sys2Proof.Machine

end

/-! # The packet codec (`41_packet_codec.md`)

The statements of the family `41_packet_codec.md`. One lemma a row of R141's table, for messages of any
length; one equation for `Pack` in arithmetic; and for each operation what it gives unfaulted, which is
`finish` of its result (R140). -/

section

namespace Sys2Proof.Machine

variable {s : State} {m : Message}

/-! ### CinOf, one lemma a row of R141's table -/

theorem messageLen_bounds (m : Message) : 1 ≤ messageLen m ∧ messageLen m ≤ 3 := by
  cases m <;> simp [messageLen]

/-- A message of one byte ends with its status byte. -/
theorem messageLast_of_len_one (h : messageLen m = 1) : messageLast m = messageStatus m := by
  cases m with
  | one => rfl
  | two | three => cases h

/-- A SysEx start or continuation has CIN 0x4, and one that ends the SysEx counts its bytes from there. -/
theorem cinOf_sysEx (h : messageStatus m < 0x80#8 ∨ messageStatus m = 0xF0#8) :
    cinOf m = if messageLast m = 0xF7#8 then BitVec.ofNat 4 (0x4 + messageLen m) else 0x4#4 := by
  have hchannel : ¬(0x80#8 ≤ messageStatus m ∧ messageStatus m ≤ 0xEF#8) := by bv_omega
  have hend : ¬(messageLen m = 1 ∧ messageStatus m = 0xF7#8) := by bv_omega
  simp only [cinOf, if_neg hchannel, if_neg hend, h.symm, true_and, if_true]

theorem cinOf_sysCommonTwoByte (h : messageStatus m = 0xF1#8 ∨ messageStatus m = 0xF3#8) :
    cinOf m = 0x2#4 := by
  rcases h with h | h <;> simp [cinOf, h]

theorem cinOf_sysCommonThreeByte (h : messageStatus m = 0xF2#8) : cinOf m = 0x3#4 := by
  simp [cinOf, h]

theorem cinOf_undefined (h : messageStatus m = 0xF4#8 ∨ messageStatus m = 0xF5#8) : cinOf m = 0x0#4 := by
  rcases h with h | h <;> simp [cinOf, h]

theorem cinOf_tuneRequest (h : messageStatus m = 0xF6#8) : cinOf m = 0xF#4 := by
  simp [cinOf, h]

theorem cinOf_endOfExclusive (h : messageStatus m = 0xF7#8) :
    cinOf m = if messageLen m = 1 then 0x5#4 else 0x0#4 := by
  simp [cinOf, h]

theorem cinOf_realTime (h : 0xF8#8 ≤ messageStatus m) : cinOf m = 0xF#4 := by
  have hchannel : ¬(0x80#8 ≤ messageStatus m ∧ messageStatus m ≤ 0xEF#8) := by bv_omega
  have hsysEx : ¬(messageStatus m = 0xF0#8 ∨ messageStatus m < 0x80#8) := by bv_omega
  have hend : messageStatus m ≠ 0xF7#8 := by bv_omega
  have htwo : ¬(messageStatus m = 0xF1#8 ∨ messageStatus m = 0xF3#8) := by bv_omega
  have hthree : messageStatus m ≠ 0xF2#8 := by bv_omega
  simp [cinOf, hchannel, hsysEx, hend, htwo, hthree, h]

/-- The CIN of a SysEx message as the table writes it: one byte that starts or continues the SysEx does not
end it. -/
theorem cinOf_sysEx_toNat (h : messageStatus m < 0x80#8 ∨ messageStatus m = 0xF0#8) :
    (cinOf m).toNat = if messageLen m = 2 ∧ (messageLast m).toNat = 0xF7 then 0x6
      else if messageLen m = 3 ∧ (messageLast m).toNat = 0xF7 then 0x7 else 0x4 := by
  have hlast : (messageLast m).toNat = 0xF7 ↔ messageLast m = 0xF7#8 := by bv_omega
  rw [cinOf_sysEx h]
  simp only [hlast]
  by_cases hl : messageLast m = 0xF7#8
  · have hone : messageLen m ≠ 1 := by
      intro hn
      rw [messageLast_of_len_one hn] at hl
      bv_omega
    obtain ⟨hpos, hle⟩ := messageLen_bounds m
    have hlen : messageLen m = 2 ∨ messageLen m = 3 := by omega
    rcases hlen with hlen | hlen <;> simp [hl, hlen]
  · simp [hl]

/-- Settles O7: each clause is a row of the table. -/
theorem cinOfFollowsFirstByte : Obligations.CinOfFollowsFirstByte := by
  intro m
  refine ⟨fun h => cinOf_sysEx_toNat (by bv_omega), fun h1 h2 => ?_, fun h => ?_, fun h => ?_, fun h => ?_,
    fun h => ?_, fun h => ?_, fun h => ?_⟩
  · rw [cinOf_channel (by bv_omega) (by bv_omega), BitVec.toNat_setWidth, BitVec.toNat_ushiftRight,
      Nat.shiftRight_eq_div_pow]
    omega
  · rw [cinOf_sysCommonTwoByte (by bv_omega)]; rfl
  · rw [cinOf_sysCommonThreeByte (by bv_omega)]; rfl
  · rw [cinOf_undefined (by bv_omega)]; rfl
  · rw [cinOf_tuneRequest (by bv_omega)]; rfl
  · rw [cinOf_endOfExclusive (by bv_omega)]; split <;> rfl
  · rw [cinOf_realTime (by bv_omega)]; rfl

/-! ### Messages as byte lists (R145, R146) -/

/-- The status byte is the list's first byte, the last byte its last (R141). -/
theorem messageOf_ends {msg : List Byte} (h : messageOf msg = some m) :
    msg.head? = some (messageStatus m) ∧ msg.getLast? = some (messageLast m) := by
  unfold messageOf at h
  split at h <;> cases h <;> exact ⟨rfl, rfl⟩

theorem messageOf_isSome {msg : List Byte} (hpos : 1 ≤ msg.length) (hle : msg.length ≤ 3) :
    ∃ m, messageOf msg = some m :=
  Option.ne_none_iff_exists'.mp (mt messageOf_eq_none.mp (by omega))

/-! ### Pack and Unpack (R144, R149, R150) -/

theorem cableNibble_of_toNat (cable : Nibble) : cableNibble cable.toNat = cable := by
  simp [cableNibble]

theorem txNibbleOf_shared {c : Config} (h : c.strategy = .shared) (cable : Nibble) :
    txNibbleOf c cable = cable := by
  simp [txNibbleOf, h]

/-- `Pack` with its header in arithmetic (R76, R144). -/
theorem pack_eq (c : Config) (cable cin : Nibble) (m : Message) :
    pack c cable cin m = ⟨BitVec.ofNat 8 (16 * (txNibbleOf c cable).toNat + cin.toNat),
      messageStatus m, messageByte2 m, messageByte3 m⟩ := by
  rw [pack, headerByte_eq]

/-- With the identity map, unpacking gives back what was packed (R150). -/
theorem unpack_pack {c : Config} (h : c.strategy = .shared) (cable cin : Nibble) (m : Message) :
    unpack (pack c cable cin m) = ⟨cable, cin, messageStatus m, messageByte2 m, messageByte3 m⟩ := by
  simp [unpack, pack, txNibbleOf_shared h]

/-- With the identity map, packing the parts of a packet gives the packet back (R150). -/
theorem pack_unpack {c : Config} (h : c.strategy = .shared) (q : Packet) :
    pack c (unpack q).nibble (unpack q).cin (.three (unpack q).b1 (unpack q).b2 (unpack q).b3) = q := by
  simp [unpack, pack, txNibbleOf_shared h, messageStatus, messageByte2, messageByte3]

/-! ### The operations' results (R140, R143, R145, R148) -/

theorem exec_pack (hf : s.fault = none) (cable cin : Nat) (b1 b2 b3 : Byte) :
    exec (.pack cable cin b1 b2 b3) s = finish s (packResult s.cfg cable cin b1 b2 b3) :=
  unlessFaulted_of_none hf

theorem exec_encode (hf : s.fault = none) (cable : Nat) (msg : List Byte) :
    exec (.encode cable msg) s = finish s (encodeResult s.cfg cable msg) :=
  unlessFaulted_of_none hf

theorem exec_decodePacket (hf : s.fault = none) (p0 p1 p2 p3 : Byte) :
    exec (.decodePacket p0 p1 p2 p3) s = finish s (decodePacketResult p0 p1 p2 p3) :=
  unlessFaulted_of_none hf

theorem encodeResult_of_message {c : Config} {cable : Nat} {msg : List Byte} (hc : cable < 16)
    (hm : messageOf msg = some m) :
    encodeResult c cable msg = .packet (pack c (cableNibble cable) (cinOf m) m) := by
  rw [encodeResult, if_neg (Nat.not_le.mpr hc), hm]

/-- Settles O8: the two range checks in order, and past them `Pack` of the operands. -/
theorem packReturnsPacket : Obligations.PackReturnsPacket := by
  intro s cable cin b1 b2 b3 hf
  rw [exec_pack hf, packResult]
  refine ⟨fun hcable hcin => ?_, fun hcable => ?_, fun hcable hcin => ?_⟩
  · rw [if_neg (Nat.not_le.mpr hcable), if_neg (Nat.not_le.mpr hcin), pack_eq, cinNibble_toNat hcin]
    rfl
  · rw [if_pos hcable]
    rfl
  · rw [if_neg (Nat.not_le.mpr hcable), if_pos hcin]
    rfl

/-- Settles O9: the two checks in order, and past them `Pack` of the message with its CIN. -/
theorem encodeReturnsPacket : Obligations.EncodeReturnsPacket := by
  intro s cable msg hf
  rw [exec_encode hf]
  refine ⟨fun m hcable hm => ?_, messageOf_isSome, fun m hm => ?_, fun hcable => ?_, fun hcable hlen => ?_⟩
  · obtain ⟨hstatus, hbyte2, hbyte3, -⟩ := messageOf_bytes hm
    rw [encodeResult_of_message hcable hm, pack_eq, hstatus, hbyte2, hbyte3]
    rfl
  · obtain ⟨-, -, -, hlen⟩ := messageOf_bytes hm
    exact ⟨hlen, messageOf_ends hm⟩
  · rw [encodeResult, if_pos hcable]
    rfl
  · rw [encodeResult, if_neg (Nat.not_le.mpr hcable), messageOf_eq_none.mpr hlen]
    rfl

/-- Settles O10: the header's fields in arithmetic, the payload as it stands. -/
theorem decodePacketReturnsTuple : Obligations.DecodePacketReturnsTuple := by
  intro s p0 p1 p2 p3 hf
  rw [exec_decodePacket hf, decodePacketResult, unpack, headerCable_eq, headerCin_eq]
  rfl

/-- Settles O6: `Pack` and `Unpack` undo each other, and ENCODE's packet is a `Pack`. -/
theorem packUnpackRoundTrip : Obligations.PackUnpackRoundTrip := by
  intro c hshared
  refine ⟨fun cable cin b1 b2 b3 => unpack_pack hshared cable cin _, fun s cable msg m hc hf hm => ?_,
    pack_unpack hshared⟩
  subst hc
  obtain ⟨hstatus, hbyte2, hbyte3, -⟩ := messageOf_bytes hm
  refine ⟨pack s.cfg cable (cinOf m) m, ?_, ?_⟩
  · rw [exec_encode hf, encodeResult_of_message cable.isLt hm, cableNibble_of_toNat]
    rfl
  · rw [unpack_pack hshared, hstatus, hbyte2, hbyte3]

/-! ### Purity (R140, R225) -/

/-- A codec operation has one result in all unfaulted states of a configuration, and writes it to the reply
alone (R140). -/
theorem exec_codec {i : Instr} (c : Config)
    (hi : (∃ cable cin b1 b2 b3, i = .pack cable cin b1 b2 b3) ∨ (∃ cable msg, i = .encode cable msg) ∨
      (∃ p0 p1 p2 p3, i = .decodePacket p0 p1 p2 p3)) :
    ∃ r : Reply, ∀ s : State, s.cfg = c → s.fault = none → exec i s = finish s r := by
  rcases hi with ⟨cable, cin, b1, b2, b3, rfl⟩ | ⟨cable, msg, rfl⟩ | ⟨p0, p1, p2, p3, rfl⟩
  · exact ⟨packResult c cable cin b1 b2 b3, fun _ hc hf => hc ▸ exec_pack hf cable cin b1 b2 b3⟩
  · exact ⟨encodeResult c cable msg, fun _ hc hf => hc ▸ exec_encode hf cable msg⟩
  · exact ⟨decodePacketResult p0 p1 p2 p3, fun _ _ hf => exec_decodePacket hf p0 p1 p2 p3⟩

/-- Settles O11: taking a request changes neither the configuration nor FAULT, so the step on it gives the
operation's one result. -/
theorem codecOpsArePure : Obligations.CodecOpsArePure := by
  intro i c hi
  have hissuer : issuerOf i = .application :=
    issuerOf_applicationRow (.inr (.inr (.inr (.inr (.inr hi)))))
  obtain ⟨r, hexec⟩ := exec_codec c hi
  refine ⟨⟨r, fun s hc hf => ⟨hexec s hc hf, fun bs rs hq hd => ?_⟩⟩, fun a => hissuer ▸ mayIssue_iff⟩
  have hstep : step s = exec i (s.withRequests rs) :=
    stepRunsRequest s ⟨.application, bs⟩ rs i hf hq hd (mayIssue_iff.mpr hissuer.symm)
  rw [hstep]
  exact hexec (s.withRequests rs) hc hf

end Sys2Proof.Machine

end

/-! # The decode task (`42_dispatch.md`)

The statements of the family `42_dispatch.md`. One equation an outcome says what RUN_TASK and DECODE_STEP
give; the statements about one step are read off these. What `k` consuming steps leave (R179) is a relation
that one step extends. -/

section

namespace Sys2Proof.Machine

variable {s u : State}

/-! ### RUN_TASK (R172) -/

theorem exec_runTask_of_queued (hf : s.fault = none) (ha : s.decodeActive = false) (hq : s.taskQ ≠ 0) :
    exec .runTask s = finish s.startTask (.code .ok) := by
  rw [exec, execRunTask, unlessFaulted_of_none hf, if_neg (by simp [ha]), if_neg hq]

theorem exec_runTask_of_busy (hf : s.fault = none) (ha : s.decodeActive = true) :
    exec .runTask s = finish s (.code .noopBusy) := by
  rw [exec, execRunTask, unlessFaulted_of_none hf, if_pos ha]

theorem exec_runTask_of_empty (hf : s.fault = none) (ha : s.decodeActive = false) (hq : s.taskQ = 0) :
    exec .runTask s = finish s (.code .noopIdle) := by
  rw [exec, execRunTask, unlessFaulted_of_none hf, if_neg (by simp [ha]), if_pos hq]

/-- Settles O25: the two guards of RUN_TASK, and past them the task started. -/
theorem runTaskStartsOneTask : Obligations.RunTaskStartsOneTask := by
  intro s hf
  exact ⟨exec_runTask_of_queued hf, exec_runTask_of_busy hf, exec_runTask_of_empty hf⟩

/-! ### One DECODE_STEP (R173 to R177, R182) -/

theorem exec_decodeStep_of_inactive (hf : s.fault = none) (ha : s.decodeActive = false) :
    exec .decodeStep s = finish s (.code .noopIdle) := by
  rw [exec, execDecodeStep, unlessFaulted_of_none hf, if_pos ha]

theorem exec_decodeStep_of_closed (hf : s.fault = none) (ha : s.decodeActive = true)
    (ho : s.isOpen = false) : exec .decodeStep s = finish s.endTask (.code .taskDone) := by
  rw [exec, execDecodeStep, unlessFaulted_of_none hf, if_neg (by simp [ha]), if_pos ho]

theorem exec_decodeStep_of_partial (hf : s.fault = none) (ha : s.decodeActive = true)
    (ho : s.isOpen = true) (hc : s.rxCnt < 4) :
    exec .decodeStep s = finish (armRx s.endTask).1 (.code .taskDone) := by
  rw [exec, execDecodeStep, unlessFaulted_of_none hf, if_neg (by simp [ha]), if_neg (by simp [ho]),
    if_pos hc]

/-- The group consumed and its packet delivered, with the packet's result (R173, R175). -/
def deliverHead (s : State) : State × Result := deliver s.consumeGroup (unpack (headPacket s))

theorem exec_decodeStep_of_group (hf : s.fault = none) (ha : s.decodeActive = true)
    (ho : s.isOpen = true) (hc : 4 ≤ s.rxCnt) :
    exec .decodeStep s = finish (armRx (deliverHead s).1).1 (.code (deliverHead s).2) := by
  rw [exec, execDecodeStep, unlessFaulted_of_none hf, if_neg (by simp [ha]), if_neg (by simp [ho]),
    if_neg (Nat.not_lt.mpr hc)]
  rfl

/-- An arm attempt while open with free bytes submits exactly when the pump is Idle (R112). -/
theorem armRx_fst_of_free (ho : s.isOpen = true) (h : s.rxFree ≠ 0) :
    (armRx s).1 = if s.rxState = .transferPending then s else submitRxRegion s := by
  cases hp : s.rxState with
  | idle => rw [armRx_submits ho hp h, if_neg (by simp)]
  | transferPending => rw [armRx_pending ho hp, if_pos rfl]

/-- Settles O26: a ring of fewer than four bytes has room, so an Idle pump is armed when the task ends. -/
theorem decodeStepWithoutGroupEndsTask : Obligations.DecodeStepWithoutGroupEndsTask := by
  intro s hf
  refine ⟨exec_decodeStep_of_inactive hf, exec_decodeStep_of_closed hf, fun ha ho hc => ?_⟩
  have hfree : s.endTask.rxFree ≠ 0 := by
    have hcap := s.cfg.cRx_ge
    simp only [State.rxFree, State.endTask_cfg, State.endTask_rxCnt]
    omega
  rw [exec_decodeStep_of_partial hf ha ho hc, armRx_fst_of_free (s := s.endTask) ho hfree,
    State.endTask_rxState]
  split <;> rfl

/-- Consuming a group leaves room in the ring. -/
theorem rxFree_consumeGroup_ne_zero (hcnt : s.rxCnt ≤ s.cfg.cRx) (hc : 4 ≤ s.rxCnt) :
    s.consumeGroup.rxFree ≠ 0 := by
  simp only [State.rxFree, State.consumeGroup_cfg, State.consumeGroup_rxCnt]
  omega

/-- The group consumed and its packet delivered, the write cursor is where it was (R37 (c)). -/
theorem deliverHead_rxWr (hc : 4 ≤ s.rxCnt) : (deliverHead s).1.rxWr = s.rxWr := by
  rw [deliverHead, deliver_fst]
  exact rxWr_consumeGroup hc

/-- Settles O27: the header's fields in arithmetic, the delivery, and the arm attempt, which finds room and
offers it at the unmoved write cursor. -/
theorem decodeStepConsumesGroup : Obligations.DecodeStepConsumesGroup := by
  intro s hf ha ho hc hs
  refine ⟨fun hshared => ?_, ?_⟩
  · rw [rxCableOf_shared hshared, BitVec.toNat_ofNat, Nat.mod_eq_of_lt (by omega)]
  have hfree : (deliverHead s).1.rxFree ≠ 0 := by
    simpa [deliverHead, State.rxFree] using rxFree_consumeGroup_ne_zero hs.cnt_le hc
  rw [exec_decodeStep_of_group hf ha ho hc, armRx_fst_of_free (by simpa [deliverHead] using ho) hfree,
    submitRxRegion_eq, deliverHead_rxWr hc, deliverHead, deliver_rxState, State.consumeGroup_rxState,
    deliver_fst, deliver_snd, deliveredEvents, ← headerCable_eq, ← headerCin_eq]
  simp only [← dispatchable_iff]
  by_cases hp : s.rxState = .transferPending
  · simp only [if_pos hp]
    rfl
  · simp only [if_neg hp]
    rfl

theorem armRx_withReply (r : Option Reply) : (armRx (s.withReply r)).1 = (armRx s).1.withReply r := by
  rcases armRx_cases s with ⟨ho, h⟩ | ⟨ho, hp, h⟩ | ⟨ho, hi, hfull, h⟩ | ⟨ho, hi, hfree, h⟩
  · rw [h, armRx_closed (s := s.withReply r) ho]
  · rw [h, armRx_pending (s := s.withReply r) ho hp]
  · rw [h, armRx_full (s := s.withReply r) ho hi hfull]
  · rw [h, armRx_submits (s := s.withReply r) ho hi hfree]
    rfl

/-- The decoder reads from a packet's bytes the row that delivers the packet (R77, R97). -/
theorem decode_packetList (p : Packet) : ∃ i, decode .eventPacket (packetList p) = .ok (i, []) ∧
    ∀ s, exec i s = deliverPacket (unpack p) s :=
  ⟨_, rfl, exec_packetInstr _ _ _ _ _⟩

/-- Settles O28: the packet row read there is the delivery in DECODE_STEP, and the reply it sets does not
matter to the arm attempt. -/
theorem decodeStepRunsHeadPacket : Obligations.DecodeStepRunsHeadPacket := by
  intro s hf ha ho hc
  obtain ⟨i, hdecode, hexec⟩ := decode_packetList (headPacket s)
  refine ⟨i, (deliverHead s).1.withReply (some (.code (deliverHead s).2)), hdecode, ?_, ?_⟩
  · rw [hexec, deliverPacket, unlessFaulted_of_none (s := s.consumeGroup) hf]
    rfl
  · rw [exec_decodeStep_of_group hf ha ho hc, armRx_withReply]
    rfl

/-! ### A whole task (R179, R181) -/

theorem execAll_append {is : List Instr} (js : List Instr) (h : execAll is s = .next u) :
    execAll (is ++ js) s = execAll js u := by
  induction is generalizing s with
  | nil => cases h; rfl
  | cons i is ih =>
    obtain ⟨t, hexec, hrest⟩ := execAll_cons_next h
    rw [List.cons_append, execAll, hexec]
    exact ih hrest

/-- After `k` repetitions of an operation, one more. -/
theorem execAll_replicate_succ {i : Instr} {k : Nat} (h : execAll (List.replicate k i) s = .next u) :
    execAll (List.replicate (k + 1) i) s = exec i u := by
  rw [List.replicate_succ', execAll_append [i] h, execAll]
  cases exec i u <;> rfl

theorem dispatchesOf_append (tr tr' : List Event) :
    dispatchesOf (tr ++ tr') = dispatchesOf tr ++ dispatchesOf tr' :=
  List.filter_append ..

/-- An arm attempt dispatches nothing. -/
@[simp] theorem dispatchesOf_armRx (s : State) : dispatchesOf (armRx s).1.trace = dispatchesOf s.trace := by
  rcases armRx_unchanged_or_submits s with h | ⟨-, -, -, h⟩
  · rw [h]
  · rw [h, dispatchesOf_append]
    exact List.append_nil _

theorem ringPacket_mod (d : Direction) (cap : Nat) (m : Memory) (start : Nat) :
    ringPacket d cap m (start % cap) = ringPacket d cap m start := by
  simp [ringPacket]

/-- Delivering the head group adds its Dispatch event, if its cable has a handler (R175). -/
theorem dispatchesOf_deliverHead (s : State) :
    dispatchesOf (deliverHead s).1.trace = dispatchesOf s.trace ++ (groupDispatch s 0).toList := by
  have hhead : groupAt s 0 = headPacket s := rfl
  have hnew : dispatchesOf (deliveredEvents s.consumeGroup (unpack (headPacket s))) =
      (groupDispatch s 0).toList := by
    cases hguard : s.dispatchable (rxCableOf s.cfg (unpack (headPacket s)).nibble) <;>
      simp [deliveredEvents, groupDispatch, dispatchesOf, hhead, hguard]
  rw [deliverHead, deliver_fst, dispatchesOf_append, hnew, State.consumeGroup_trace]

/-- What `k` consuming steps have left of a state: the cursor past `k` groups and their Dispatch events in
ring order, OPEN, DECODE_ACTIVE, HANDLER_MASK, FAULT and the storage as they were (R173, R179). -/
structure GroupsConsumed (s : State) (k : Nat) (u : State) : Prop where
  cfg          : u.cfg = s.cfg
  isOpen       : u.isOpen = s.isOpen
  decodeActive : u.decodeActive = s.decodeActive
  fault        : u.fault = s.fault
  handlerMask  : u.handlerMask = s.handlerMask
  rxBuf        : u.rxBuf = s.rxBuf
  rxRd         : u.rxRd = (s.rxRd + 4 * k) % s.cfg.cRx
  rxCnt        : u.rxCnt + 4 * k = s.rxCnt
  dispatches   : dispatchesOf u.trace = dispatchesOf s.trace ++ (List.range k).filterMap (groupDispatch s)

namespace GroupsConsumed
variable {k : Nat}

theorem refl (h : s.rxRd < s.cfg.cRx) : GroupsConsumed s 0 s where
  cfg := rfl
  isOpen := rfl
  decodeActive := rfl
  fault := rfl
  handlerMask := rfl
  rxBuf := rfl
  rxRd := (Nat.mod_eq_of_lt h).symm
  rxCnt := rfl
  dispatches := (List.append_nil _).symm

/-- The head group is the `k`-th group of the ring the task started on. -/
theorem groupDispatch_head (h : GroupsConsumed s k u) : groupDispatch u 0 = groupDispatch s k := by
  have hgroup : groupAt u 0 = groupAt s k := by
    rw [groupAt, h.cfg, h.rxBuf, h.rxRd]
    exact ringPacket_mod ..
  have hguard (cable : Nibble) : u.dispatchable cable = s.dispatchable cable := by
    rw [State.dispatchable, State.dispatchable, State.handlerBit, State.handlerBit, h.cfg, h.handlerMask]
  simp only [groupDispatch, hgroup, hguard, h.cfg]

/-- The head group delivered and the arm attempt made, one group more is consumed. -/
theorem succ (h : GroupsConsumed s k u) (hc : 4 * (k + 1) ≤ s.rxCnt) (r : Option Reply) :
    GroupsConsumed s (k + 1) ((armRx (deliverHead u).1).1.withReply r) where
  cfg := by simpa [deliverHead] using h.cfg
  isOpen := by simpa [deliverHead] using h.isOpen
  decodeActive := by simpa [deliverHead] using h.decodeActive
  fault := by simpa [deliverHead] using h.fault
  handlerMask := by simpa [deliverHead] using h.handlerMask
  rxBuf := by simpa [deliverHead] using h.rxBuf
  rxRd := by simp [deliverHead, h.cfg, h.rxRd, Nat.mul_add, Nat.add_assoc]
  rxCnt := by
    have hcnt := h.rxCnt
    simp only [deliverHead, State.withReply_rxCnt, armRx_rxCnt, deliver_rxCnt, State.consumeGroup_rxCnt]
    omega
  dispatches := by
    rw [State.withReply_trace, dispatchesOf_armRx, dispatchesOf_deliverHead, h.dispatches,
      h.groupDispatch_head, List.range_succ, List.filterMap_append, List.append_assoc]
    cases hd : groupDispatch s k <;> simp [hd]

/-- DECODE_STEP goes one group further, and replies DISPATCHED or DROPPED. -/
theorem step (h : GroupsConsumed s k u) (hf : s.fault = none) (ha : s.decodeActive = true)
    (ho : s.isOpen = true) (hc : 4 * (k + 1) ≤ s.rxCnt) :
    ∃ t, exec .decodeStep u = .next t ∧ GroupsConsumed s (k + 1) t ∧
      (t.reply = some (.code .dispatched) ∨ t.reply = some (.code .dropped)) := by
  have hcnt := h.rxCnt
  refine ⟨_, exec_decodeStep_of_group (h.fault.trans hf) (h.decodeActive.trans ha) (h.isOpen.trans ho)
    (by omega), h.succ hc _, ?_⟩
  rw [State.withReply_reply, deliverHead, deliver_snd]
  split
  · exact .inl rfl
  · exact .inr rfl

end GroupsConsumed

/-- A running task consumes every whole group there is (R179). -/
theorem execAll_consumes_groups (hf : s.fault = none) (ha : s.decodeActive = true) (ho : s.isOpen = true)
    (hs : RxRingInv s) (k : Nat) (hk : 4 * k ≤ s.rxCnt) :
    ∃ u, execAll (List.replicate k .decodeStep) s = .next u ∧ GroupsConsumed s k u := by
  induction k with
  | zero => exact ⟨s, rfl, .refl hs.rd_lt⟩
  | succ k ih =>
    obtain ⟨u, hrun, hu⟩ := ih (by omega)
    obtain ⟨t, hexec, ht, -⟩ := hu.step hf ha ho hk
    exact ⟨t, (execAll_replicate_succ hrun).trans hexec, ht⟩

/-- A ring of `k` groups, all of them registered, has `k` Dispatch events (R175). -/
theorem length_filterMap_groupDispatch {k : Nat}
    (h : ∀ j, j < k → s.dispatchable (rxCableOf s.cfg (unpack (groupAt s j)).nibble) = true) :
    ((List.range k).filterMap (groupDispatch s)).length = k := by
  have hsome (j : Nat) (hj : j ∈ List.range k) : (groupDispatch s j).isSome = true := by
    simp [groupDispatch, h j (List.mem_range.mp hj)]
  rw [List.length_filterMap_eq_countP, List.countP_eq_length.mpr hsome, List.length_range]

/-- Settles O30: the consuming steps one by one, and then DECODE_STEP on the bytes that are no group. -/
theorem partialGroupIsLeftUnconsumed : Obligations.PartialGroupIsLeftUnconsumed := by
  intro s k r hf ho ha hs hcnt hr
  refine ⟨fun j hj => ?_, ?_⟩
  · obtain ⟨u, hrun, hu⟩ := execAll_consumes_groups hf ha ho hs j (by omega)
    obtain ⟨t, hexec, -, hreply⟩ := hu.step hf ha ho (by omega)
    exact ⟨t, (execAll_replicate_succ hrun).trans hexec, hreply⟩
  · obtain ⟨u, hrun, hu⟩ := execAll_consumes_groups hf ha ho hs k (by omega)
    have hleft : u.rxCnt = r := by
      have := hu.rxCnt
      omega
    have hdone := exec_decodeStep_of_partial (hu.fault.trans hf) (hu.decodeActive.trans ha)
      (hu.isOpen.trans ho) (hleft ▸ hr)
    have hdispatches : dispatchesOf (armRx u.endTask).1.trace =
        dispatchesOf s.trace ++ (List.range k).filterMap (groupDispatch s) := by
      simpa using hu.dispatches
    refine ⟨_, (execAll_replicate_succ hrun).trans hdone, rfl, by simp, by simpa using hleft,
      by simpa using hu.rxRd, by simpa using hu.rxBuf, hdispatches, fun hall => ?_⟩
    rw [State.withReply_trace, hdispatches, List.length_append, length_filterMap_groupDispatch hall]

end Sys2Proof.Machine

end

/-! # The application's operations (`43_application_api.md`)

The statements of the family `43_application_api.md`. What queuing a packet leaves (R194) is said once, for
any packet; SEND's checks are one equation each, in their order (R191). A helper is the channel check and
SEND (R200), so its statements are read off SEND's. -/

section

namespace Sys2Proof.Machine

variable {s : State} {m : Message} {cable : Nat} {msg : List Byte}

/-! ### Queuing a packet (R193, R194) -/

/-- The arm attempt that follows a packet finds bytes to send: it submits unless a transfer is pending (R193). -/
theorem packetQueued_armTx (ho : s.isOpen = true) (p : Packet) :
    PacketQueued s ((armTx (s.queuePacket p)).1.withReply (some (.code .ok))) (packetList p) where
  stored i v hv := by
    rw [State.withReply_txBuf, armTx_txBuf]
    exact queuePacket_stored hv
  kept a ha := by
    rw [State.withReply_txBuf, armTx_txBuf]
    exact queuePacket_kept ha
  rest := by
    cases hp : s.txState with
    | idle =>
      rw [armTx_submits (s := s.queuePacket p) ho hp (Nat.succ_ne_zero _), if_neg (by decide)]
      rfl
    | transferPending =>
      rw [armTx_pending (s := s.queuePacket p) ho hp, if_pos rfl, ← hp]
      rfl

/-! ### SEND (R191, R195, R196) -/

theorem exec_send (hf : s.fault = none) (cable : Nat) (msg : List Byte) :
    exec (.send cable msg) s = finishCode (sendMessage s cable msg) :=
  unlessFaulted_of_none hf

theorem sendMessage_of_cableRange (hc : 16 ≤ cable) : sendMessage s cable msg = (s, .rejectCableRange) :=
  if_pos hc

theorem sendMessage_of_length (hc : cable < 16) (hm : messageOf msg = none) :
    sendMessage s cable msg = (s, .rejectLength) := by
  rw [sendMessage, if_neg (Nat.not_le.mpr hc), hm]

theorem sendMessage_of_closed (hc : cable < 16) (hm : messageOf msg = some m) (ho : s.isOpen = false) :
    sendMessage s cable msg = (s, .rejectNotOpen) := by
  simp only [sendMessage, if_neg (Nat.not_le.mpr hc), hm, if_pos ho]

theorem sendMessage_of_full (hc : cable < 16) (hm : messageOf msg = some m) (ho : s.isOpen = true)
    (hfree : s.txFree < 4) : sendMessage s cable msg = (s, .bufferFull) := by
  simp only [sendMessage, if_neg (Nat.not_le.mpr hc), hm, ho, Bool.true_eq_false, if_false, if_pos hfree]

theorem sendMessage_of_free (hc : cable < 16) (hm : messageOf msg = some m) (ho : s.isOpen = true)
    (hfree : 4 ≤ s.txFree) :
    sendMessage s cable msg =
      ((armTx (s.queuePacket (pack s.cfg (cableNibble cable) (cinOf m) m))).1, .ok) := by
  simp only [sendMessage, if_neg (Nat.not_le.mpr hc), hm, ho, Bool.true_eq_false, if_false,
    if_neg (Nat.not_lt.mpr hfree)]

/-- Past its checks SEND queues the packet of its message (R191). -/
theorem exec_send_queues (hf : s.fault = none) (hc : cable < 16) (hm : messageOf msg = some m)
    (ho : s.isOpen = true) (hfree : 4 ≤ s.txFree) :
    ∃ t, exec (.send cable msg) s = .next t ∧
      PacketQueued s t (packetList (pack s.cfg (cableNibble cable) (cinOf m) m)) := by
  refine ⟨_, ?_, packetQueued_armTx ho _⟩
  rw [exec_send hf, sendMessage_of_free hc hm ho hfree]
  rfl

/-- Settles O31: SEND's four checks in order, and past them the packet of the message queued. -/
theorem sendQueuesPacket : Obligations.SendQueuesPacket := by
  intro s cable msg hf
  refine ⟨fun m hc hm ho hfree => ?_, messageOf_isSome, fun hc => ?_, fun hc hlen => ?_,
    fun hc hpos hle ho => ?_, fun hc hpos hle ho hfull => ?_⟩
  · obtain ⟨hstatus, hbyte2, hbyte3, -⟩ := messageOf_bytes hm
    have hqueues := exec_send_queues hf hc hm ho hfree
    rw [pack_eq, hstatus, hbyte2, hbyte3] at hqueues
    exact hqueues
  · rw [exec_send hf, sendMessage_of_cableRange hc]
    rfl
  · rw [exec_send hf, sendMessage_of_length hc (messageOf_eq_none.mpr hlen)]
    rfl
  · obtain ⟨m, hm⟩ := messageOf_isSome hpos hle
    rw [exec_send hf, sendMessage_of_closed hc hm ho]
    rfl
  · obtain ⟨m, hm⟩ := messageOf_isSome hpos hle
    rw [exec_send hf, sendMessage_of_full hc hm ho hfull]
    rfl

/-! ### The helpers (R197 to R200) -/

section
variable {channel base : Nat} {b1 b2 : Byte}

/-- The three helpers are one operation, with the status base of each. -/
theorem exec_helper (s : State) {p : Nat × Instr}
    (hp : p ∈ [(0x90, Instr.noteOn cable channel b1 b2), (0x80, Instr.noteOff cable channel b1 b2),
      (0xB0, Instr.controlChange cable channel b1 b2)]) :
    (p.1 = 0x80 ∨ p.1 = 0x90 ∨ p.1 = 0xB0) ∧
      exec p.2 s = sendHelper (BitVec.ofNat 8 p.1) cable channel b1 b2 s := by
  simp only [List.mem_cons, List.not_mem_nil, or_false] at hp
  rcases hp with rfl | rfl | rfl
  · exact ⟨.inr (.inl rfl), rfl⟩
  · exact ⟨.inl rfl, rfl⟩
  · exact ⟨.inr (.inr rfl), rfl⟩

theorem sendHelper_of_channelRange {base : Byte} (hf : s.fault = none) (hch : 16 ≤ channel) :
    sendHelper base cable channel b1 b2 s = reject s .rejectChannelRange := by
  rw [sendHelper, unlessFaulted_of_none hf, if_pos hch]

/-- Past the channel check a helper is SEND of its three bytes (R200). -/
theorem sendHelper_eq_send (hbase : base = 0x80 ∨ base = 0x90 ∨ base = 0xB0) (hch : channel < 16) :
    sendHelper (BitVec.ofNat 8 base) cable channel b1 b2 s =
      exec (.send cable [BitVec.ofNat 8 (base + channel), b1, b2]) s := by
  rw [sendHelper, if_neg (Nat.not_le.mpr hch), statusByte_eq hbase hch]
  rfl

end

/-- Settles O33: the helpers are one operation, which is SEND past its channel check. -/
theorem helpersAreOneSend : Obligations.HelpersAreOneSend := by
  intro s cable channel b1 b2 hf p hp
  obtain ⟨hbase, hexec⟩ := exec_helper s hp
  exact ⟨fun hch => hexec.trans (sendHelper_of_channelRange hf hch),
    fun hch => hexec.trans (sendHelper_eq_send hbase hch)⟩

/-- Settles O32: a helper is one SEND, and the CIN of its message is the category of its status base. -/
theorem helpersQueuePacket : Obligations.HelpersQueuePacket := by
  intro s cable channel b1 b2 hf hch hc ho hfree p hp
  obtain ⟨hbase, -⟩ := exec_helper s hp
  obtain ⟨-, hsend⟩ := helpersAreOneSend s cable channel b1 b2 hf p hp
  have hcin : (cinOf (.three (BitVec.ofNat 8 (p.1 + channel)) b1 b2)).toNat = p.1 / 16 := by
    rw [cinOf_helper hbase hch]
    exact cinNibble_toNat (by omega)
  have hqueues := exec_send_queues (msg := [BitVec.ofNat 8 (p.1 + channel), b1, b2]) hf hc rfl ho hfree
  rw [pack_eq, hcin] at hqueues
  rw [hsend hch]
  exact hqueues

/-! ### REGISTER (R201) -/

theorem exec_register_of_cableRange (hf : s.fault = none) (hc : s.cfg.nRx ≤ cable) (present : Bool) :
    exec (.register cable present) s = reject s .rejectCableRange := by
  rw [exec, execRegister, unlessFaulted_of_none hf, if_pos hc]

theorem exec_register_of_lt (hf : s.fault = none) (hc : cable < s.cfg.nRx) (present : Bool) :
    exec (.register cable present) s = finish (s.setHandler cable present) (.code .ok) := by
  rw [exec, execRegister, unlessFaulted_of_none hf, if_neg (Nat.not_le.mpr hc)]

theorem getLsbD_maskWith_same {mask : Mask} {present : Bool} (hc : cable < 16) :
    (maskWith mask cable present).getLsbD cable = present := by
  have hbit : (1#16 <<< cable).getLsbD cable = true := by simp [hc]
  cases present with
  | true => simp only [maskWith, if_true, BitVec.getLsbD_or, hbit, Bool.or_true]
  | false =>
    simp only [maskWith, Bool.false_eq_true, if_false, BitVec.getLsbD_and, BitVec.getLsbD_not, hbit,
      Bool.not_true, Bool.and_false]

/-- Settles O34: below N_RX, which is at most 16, the mask written is `maskWith`'s: its cable's bit and no
other. -/
theorem registerWritesOneBit : Obligations.RegisterWritesOneBit := by
  intro s cable present hf
  refine ⟨fun hc => ⟨maskWith s.handlerMask cable present, exec_register_of_lt hf hc present, fun c hc16 => ?_⟩,
    fun hc => exec_register_of_cableRange hf hc present⟩
  by_cases heq : c = cable
  · rw [if_pos heq, heq, getLsbD_maskWith_same (heq ▸ hc16)]
  · rw [if_neg heq, getLsbD_maskWith_of_ne heq]

end Sys2Proof.Machine

end

/-! # Faults (`60_exceptions.md`)

The statement of the family `60_exceptions.md`. The rows of R214's table are the cases of `FaultCause`; each
of the three operations that can write FAULT raises a fault of one of its rows only. -/

section

namespace Sys2Proof.Machine

variable {i : Instr} {s t : State} {f : FaultName}

/-- The rows of R214's table: the operation, the cause that held before it, and the fault with the
information recorded. That the first check of an operation decides (R221) is in the later rows' guards. -/
inductive FaultCause (s : State) : Instr → FaultName → Prop where
  | openWhileOpen (ho : s.isOpen = true) : FaultCause s .openDevice .openWhileOpen
  | openWhilePending (ho : s.isOpen = false) (hp : s.txState = .transferPending ∨ s.rxState = .transferPending) :
      FaultCause s .openDevice
        (.openWhilePending (s.txState = .transferPending) (s.rxState = .transferPending))
  | spuriousTx {status length : Nat} (hi : s.txState = .idle) :
      FaultCause s (.completeTx status length) (.spuriousCompletion .tx)
  | spuriousRx {status length : Nat} {data : List Byte} (hi : s.rxState = .idle) :
      FaultCause s (.completeRx status length data) (.spuriousCompletion .rx)
  | overrunTx {length : Nat} (ho : s.isOpen = true) (hp : s.txState = .transferPending)
      (hl : s.txXferLen < length) :
      FaultCause s (.completeTx 0 length) (.lengthOverrun .tx length s.txXferLen)
  | overrunRx {length : Nat} {data : List Byte} (ho : s.isOpen = true) (hp : s.rxState = .transferPending)
      (hl : s.rxXferLen < length) :
      FaultCause s (.completeRx 0 length data) (.lengthOverrun .rx length s.rxXferLen)

/-- A fault found after an operation was raised by it: it ran unfaulted (R36). -/
theorem exec_fault_ne (h : exec i s = .next t) (hf : t.fault = some f) : t.fault ≠ s.fault := by
  rw [exec_next_unfaulted h, hf]
  exact Option.some_ne_none f

theorem execOpen_fault (h : execOpen s = .next t) (hw : t.fault ≠ s.fault) :
    ∃ f, t = (s.withFault f).withReply none ∧ FaultCause s .openDevice f := by
  rcases execOpen_next h with ⟨ho, ht⟩ | ⟨ho, hp, ht⟩ | ⟨-, -, -, rfl⟩
  · exact ⟨_, ht, .openWhileOpen ho⟩
  · exact ⟨_, ht, .openWhilePending ho hp⟩
  · exact absurd rfl hw

theorem execCompleteTx_fault {status length : Nat} (h : execCompleteTx status length s = .next t)
    (hw : t.fault ≠ s.fault) :
    ∃ f, t = (s.withFault f).withReply none ∧ FaultCause s (.completeTx status length) f := by
  rcases execCompleteTx_next h with
    ⟨hi, ht⟩ | ⟨hp, ho, rfl, hl, ht⟩ | ⟨-, -, rfl⟩ | ⟨-, -, -, -, rfl⟩ | ⟨-, -, -, rfl⟩
  · exact ⟨_, ht, .spuriousTx hi⟩
  · exact ⟨_, ht, .overrunTx ho hp hl⟩
  · exact absurd (by simp) hw
  · exact absurd (by simp) hw
  · exact absurd (by simp) hw

theorem execCompleteRx_fault {status length : Nat} {data : List Byte}
    (h : execCompleteRx status length data s = .next t) (hw : t.fault ≠ s.fault) :
    ∃ f, t = (s.withFault f).withReply none ∧ FaultCause s (.completeRx status length data) f := by
  rcases (execCompleteRx_next h).2 with
    ⟨hi, ht⟩ | ⟨hp, ho, rfl, hl, ht⟩ | ⟨-, -, rfl⟩ | ⟨-, -, -, -, -, rfl⟩ | ⟨-, -, -, rfl⟩
  · exact ⟨_, ht, .spuriousRx hi⟩
  · exact ⟨_, ht, .overrunRx ho hp hl⟩
  · exact absurd (by simp) hw
  · exact absurd (by simp) hw
  · exact absurd (by simp) hw

/-- An operation that leaves FAULT set wrote FAULT alone, for a cause of R214's table. -/
theorem exec_fault (h : exec i s = .next t) (hf : t.fault = some f) :
    t = (s.withFault f).withReply none ∧ FaultCause s i f := by
  have hw := exec_fault_ne h hf
  have hraise : ∃ f, t = (s.withFault f).withReply none ∧ FaultCause s i f := by
    rcases (exec_effect h).fault_writer hw with rfl | ⟨status, length, rfl⟩ | ⟨status, length, data, rfl⟩
    · exact execOpen_fault h hw
    · exact execCompleteTx_fault h hw
    · exact execCompleteRx_fault h hw
  obtain ⟨g, rfl, hcause⟩ := hraise
  obtain rfl : g = f := Option.some.inj hf
  exact ⟨rfl, hcause⟩

/-- Settles O37: the fault has a cause of R214's table, and the statement is that table by the fault's name. -/
theorem faultsHaveTheirCauses : Obligations.FaultsHaveTheirCauses := by
  intro i s t f h hf
  obtain ⟨ht, hcause⟩ := exec_fault h hf
  refine ⟨ht, ?_⟩
  cases hcause with
  | openWhileOpen ho => exact ⟨rfl, ho⟩
  | openWhilePending ho hp =>
    exact ⟨rfl, ho, hp.imp decide_eq_true decide_eq_true, decide_eq_true_iff, decide_eq_true_iff⟩
  | spuriousTx hi => exact ⟨_, _, rfl, hi⟩
  | spuriousRx hi => exact ⟨_, _, _, rfl, hi⟩
  | overrunTx ho hp hl => exact ⟨rfl, ho, hp, rfl, hl⟩
  | overrunRx ho hp hl => exact ⟨_, rfl, ho, hp, rfl, hl⟩

end Sys2Proof.Machine

end

/-! # Reset and hazards (`70_reset_and_hazards.md`)

The statements of the family `70_reset_and_hazards.md`. That every operation completes (R250) follows each
meaning's checks: every end but a stop is a next state, and COMPLETE_RX, the one operation with stops of its
own, reaches none where its data has its length and the receive ring meets R37. That no complete packet is
stranded (R251) is read off `Effect`, but for DECODE_STEP, whose ends of a task need its guards. -/

section

namespace Sys2Proof.Machine

variable {s t : State} {i : Instr}

/-! ### Every operation completes (R250) -/

/-- The outcome is a step: a next state, faulted or not, and no stop (R250). -/
def HasStep (o : StepOutcome) : Prop := ∃ t, o = .next t

namespace HasStep

theorem finish (s : State) (r : Reply) : HasStep (finish s r) := ⟨_, rfl⟩

theorem raiseFault (s : State) (f : FaultName) : HasStep (raiseFault s f) := ⟨_, rfl⟩

/-- A check of an operation's pseudocode: a step on either side is a step. -/
theorem check {c : Prop} [Decidable c] {x y : StepOutcome} (hx : HasStep x) (hy : HasStep y) :
    HasStep (if c then x else y) := by
  split
  · exact hx
  · exact hy

theorem unfaulted {body : StepOutcome} (hf : s.fault = none) (h : HasStep body) :
    HasStep (unlessFaulted s body) := by
  rwa [unlessFaulted_of_none hf]

theorem sendHelper (hf : s.fault = none) (base : Byte) (cable channel : Nat) (b1 b2 : Byte) :
    HasStep (sendHelper base cable channel b1 b2 s) :=
  unfaulted hf (check (finish ..) (finish ..))

end HasStep

/-- Only COMPLETE_RX has stops of its own (R116, R50): every other operation, of any operands and in any
unfaulted state, ends in a result or a fault of R214. -/
theorem exec_hasStep (hf : s.fault = none) (hi : ¬CompletesRx i) : HasStep (exec i s) := by
  cases hformat : i.format with
  | eventPacket =>
    obtain ⟨u, hu, -⟩ := exec_packet hformat
    exact hu s ▸ .unfaulted hf (.finish ..)
  | op =>
    cases i with
    | openDevice => exact .unfaulted hf (.check (.raiseFault ..) (.check (.raiseFault ..) (.finish ..)))
    | closeDevice | armTx | armRx | pack | encode | decodePacket | send =>
      exact .unfaulted hf (.finish ..)
    | completeTx =>
      exact .unfaulted hf
        (.check (.raiseFault ..) (.check (.raiseFault ..) (.check (.finish ..) (.finish ..))))
    | completeRx => exact absurd ⟨_, _, _, rfl⟩ hi
    | runTask => exact .unfaulted hf (.check (.finish ..) (.check (.finish ..) (.finish ..)))
    | decodeStep =>
      exact .unfaulted hf (.check (.finish ..) (.check (.finish ..) (.check (.finish ..) (.finish ..))))
    | noteOn | noteOff | controlChange => exact .sendHelper hf ..
    | register => exact .unfaulted hf (.check (.finish ..) (.finish ..))
    | _ => cases hformat

/-- COMPLETE_RX whose data has its length has a step: a region in flight ends inside the storage (R37), so the
bytes have a place. -/
theorem exec_completeRx_hasStep (hf : s.fault = none) (hs : RxRingInv s) (status : Nat) (data : List Byte) :
    HasStep (exec (.completeRx status data.length data) s) := by
  cases hp : s.rxState with
  | idle => exact ⟨_, exec_completeRx_spurious hf hp⟩
  | transferPending =>
    cases ho : s.isOpen with
    | false => exact ⟨_, exec_completeRx_closed hf hp ho⟩
    | true =>
      by_cases hst : status = 0
      · subst hst
        by_cases hl : data.length ≤ s.rxXferLen
        · exact ⟨_, exec_completeRx_received hf hp ho hs hl⟩
        · exact ⟨_, exec_completeRx_overrun hf hp ho (Nat.not_le.mp hl)⟩
      · exact ⟨_, exec_completeRx_failed hf hp ho hst⟩

/-- Settles O52: a well-formed COMPLETE_RX carries as many bytes as its length says, and the invariant keeps
its region inside the storage; no other operation has a stop. -/
theorem everyOperationHasAStep : Obligations.EveryOperationHasAStep := by
  intro i s hs hf hwf
  by_cases hi : CompletesRx i
  · obtain ⟨status, length, data, rfl⟩ := hi
    simp only [Instr.wellFormed, Bool.and_eq_true, beq_iff_eq] at hwf
    obtain ⟨-, rfl⟩ := hwf
    exact exec_completeRx_hasStep hf hs.rx status data
  · exact exec_hasStep hf hi

/-! ### No complete packet is stranded (R251) -/

/-- Every effect but DECODE_STEP's keeps R251: bytes arrive with a task, a task that leaves the queue starts
to run, and OPEN, which drops the tasks, empties the receive ring. -/
theorem Effect.keeps_noStrandedPacket (h : Effect s i t) (hi : i ≠ .decodeStep) (hs : NoStrandedPacket s) :
    NoStrandedPacket t := by
  intro ho hc
  cases h with
  | opens _ _ _ => simp at hc
  | closes _ => cases ho
  | receives _ _ _ => exact .inl (by simp)
  | startsTask _ => exact .inr rfl
  | endsTask _ => exact absurd rfl hi
  | decodes _ _ _ => exact absurd rfl hi
  | _ => simpa using hs (by simpa using ho) (by simpa using hc)

/-- DECODE_STEP ends its task only while closed or with no complete packet left; otherwise the task runs on
(R173). -/
theorem execDecodeStep_keeps_noStrandedPacket (h : execDecodeStep s = .next t) (hs : NoStrandedPacket s) :
    NoStrandedPacket t := by
  intro ho hc
  rcases execDecodeStep_next h with
    ⟨-, rfl⟩ | ⟨-, hclosed, rfl⟩ | ⟨-, -, hpartial, rfl⟩ | ⟨hactive, -, -, rfl⟩
  · exact hs ho hc
  · exact absurd (hclosed.symm.trans ho) Bool.false_ne_true
  · have hcomplete : 4 ≤ s.rxCnt := by simpa using hc
    exact absurd hpartial (Nat.not_lt.mpr hcomplete)
  · exact .inr (by simpa using hactive)

/-- Settles O41: a step runs one operation with its request taken, which the statement does not read;
DECODE_STEP keeps R251 by its guards, every other operation by its effect. -/
theorem stepKeepsNoStrandedPacket : Obligations.StepKeepsNoStrandedPacket := by
  intro s t hs h
  obtain ⟨_, rs, i, -, -, -, -, hexec⟩ := step_next h
  have hrequest : NoStrandedPacket (s.withRequests rs) := hs
  by_cases hi : i = .decodeStep
  · subst hi
    exact execDecodeStep_keeps_noStrandedPacket hexec hrequest
  · exact (exec_effect hexec).keeps_noStrandedPacket hi hrequest

end Sys2Proof.Machine

end
